-- ==== Sys2Proof/Config.lean ====
section
/-!
DEFINITION. What an implementation fixes (spec/00_scope.md R8) and the free values: constants with no body, of which
nothing can be proved. Every free value is marked in notes/assumptions/2.md or 3.md.
-/

namespace Sys2Proof

/-- The widths R8 leaves open: arguments of the model, on whose value no rule depends. Each build of the block has one
`Params`; the state carries it as plain data and nothing changes it, so a statement about every state holds for every
width. -/
structure Params where
  /-- `ADDR_W`: width of a cursor's pointer and of a buffer address (D1). -/
  addrW : Nat
  /-- `CNT_W`: width of a remaining count and of a length operand (D2). -/
  cntW : Nat
  /-- `DIV_W`: width of `clockDivider` (D3). -/
  divW : Nat
  /-- `PRE_W`: width of `clockPrescaler` (D3). -/
  preW : Nat
  deriving DecidableEq, Repr

/-- The defaults of R8, for the test vectors, the opcode table's words and the reset state. Log entry 1. -/
def Params.default : Params := { addrW := 16, cntW := 8, divW := 8, preW := 2 }

/-- The three agents that take steps (R7). -/
inductive Agent where
  /-- The foreground, which issues commands (R7 (1)). -/
  | host
  /-- The interrupt context, which services port events (R7 (2)). -/
  | sequencer
  /-- The bit-level bus engine and the wire (R7 (3)). -/
  | port
  deriving DecidableEq, Repr, Inhabited

/-- FREE VALUE: the agent that moves when the state's schedule names none (R7: any agent with an enabled step may be
scheduled next). Log entry 7. -/
opaque Config.freeAgent : Nat → Agent

/-- FREE VALUE: the status byte an unconstrained port delivers (R144 `draw(8 bits)`). Log entry 2. -/
opaque Config.freeStatus : Nat → BitVec 8

/-- FREE VALUE: the data byte an unconstrained port delivers (R144 `draw(8 bits)`). Log entry 2. -/
opaque Config.freeData : Nat → BitVec 8

/-- FREE VALUE: the bit GETSTATUS returns while `outcome = Busy` (R97 `draw({0, 1})`). Log entry 2. -/
opaque Config.freeResult : Nat → BitVec 1

/-- FREE VALUE: the byte a buffer-memory address holds before anything was written there. Log entry 3. -/
opaque Config.unwrittenByte : Nat → BitVec 8

end Sys2Proof
end

