-- ==== Sys2Proof/Word.lean ====
section
/-!
DEFINITION. The word type of the block (spec/00_scope.md R8, R9). A byte has 8 bits. An address, a count and a clock
operand are unsigned numbers below two to the width `Params` gives them, their arithmetic written with that modulus.
-/

namespace Sys2Proof

/-- A byte: the address byte, DATA, STATUS, one byte of buffer memory. -/
abbrev Byte := BitVec 8

end Sys2Proof
end

