-- ==== Sys2Proof/Syntax.lean ====
section
/-!
DEFINITION. What the block consumes and produces (spec/30_encoding.md R70): the 28 rows of opcode_table.json as the
constructors of `Instr`, the nine event classes (R73), the six control words and their six fields (R75).
-/

namespace Sys2Proof

/-- The three formats of R70. -/
inductive Format where
  /-- A host command, a descriptor (R71), 48 bits at the default widths. -/
  | cmd
  /-- A port event, an 8-bit status byte (R73). -/
  | evt
  /-- A control word the block writes to the port (R75). -/
  | ctl
  deriving DecidableEq, Repr

/-- The nine classes a status byte falls into (R73). -/
inductive EventClass where
  | startSent
  | repStartSent
  | slawAck
  | txdataAck
  | slarAck
  | rxdataAck
  | rxdataNack
  | arbLost
  | other
  deriving DecidableEq, Repr

/-- The six named control words (R75); the block writes no other (R31, U15). -/
inductive CtlWord where
  | arm
  | start
  | next
  | nextAck
  | stop
  | hold
  deriving DecidableEq, Repr

/-- A control word: a record of six one-bit fields, written in one atomic write (R75). -/
structure ControlWord where
  en : Bool
  ie : Bool
  sta : Bool
  sto : Bool
  ea : Bool
  rearm : Bool
  deriving DecidableEq, Repr

/-- The instructions: one constructor per row of opcode_table.json. -/
inductive Instr where
  /-- `initialize(clockDivider, clockPrescaler)` (R91). -/
  | init (div pre : Nat)
  /-- `write(address, buffer, length)` (R93). -/
  | write (addr7 : BitVec 7) (buf : Nat) (len : Nat)
  /-- `read(address, buffer, length)` (R94). -/
  | read (addr7 : BitVec 7) (buf : Nat) (len : Nat)
  /-- `writeRead(address, buffer, writeLength, readLength)` (R95). -/
  | writeRead (addr7 : BitVec 7) (buf : Nat) (wlen rlen : Nat)
  /-- `isBusy()` (R96). -/
  | isBusy
  /-- `getStatus()` (R97). -/
  | getStatus
  /-- The reserved `op` 6 with the rest of the descriptor, its bits from 3 up (R77). -/
  | reservedOp6 (rest : Nat)
  /-- The reserved `op` 7 with the rest of the descriptor, its bits from 3 up (R77). -/
  | reservedOp7 (rest : Nat)
  /-- START sent; the operand of every event is the whole status byte (R110, R113). -/
  | startSent (status : Byte)
  /-- REPEATED START sent (R114). -/
  | repStartSent (status : Byte)
  /-- ADDRESS (write) acknowledged (R115). -/
  | slawAck (status : Byte)
  /-- DATA byte acknowledged (R116). -/
  | txdataAck (status : Byte)
  /-- ARBITRATION LOST (R123). -/
  | arbLost (status : Byte)
  /-- ADDRESS (read) acknowledged (R118). -/
  | slarAck (status : Byte)
  /-- DATA byte received + ACK sent (R120); the second operand is the byte in DATA. -/
  | rxdataAck (status : Byte)
  /-- DATA byte received + NACK sent (R121); the second operand is the byte in DATA. -/
  | rxdataNack (status : Byte)
  /-- Class OTHER (R124), default code 0x20: address (write) not acknowledged. -/
  | otherSlawNack (status : Byte)
  /-- Class OTHER (R124), default code 0x30: data byte not acknowledged. -/
  | otherTxdataNack (status : Byte)
  /-- Class OTHER (R124), default code 0x48: address (read) not acknowledged. -/
  | otherSlarNack (status : Byte)
  /-- Class OTHER (R124), default code 0x00: bus error. -/
  | otherBusError (status : Byte)
  /-- Class OTHER (R124), default code 0xF8: no relevant state. -/
  | otherNoState (status : Byte)
  /-- Class OTHER (R124), catch-all: any other status code. -/
  | other (status : Byte)
  /-- Control word `CW_ARM` (R75). -/
  | cwArm
  /-- Control word `CW_START` (R75). -/
  | cwStart
  /-- Control word `CW_NEXT` (R75). -/
  | cwNext
  /-- Control word `CW_NEXT_ACK` (R75). -/
  | cwNextAck
  /-- Control word `CW_STOP` (R75). -/
  | cwStop
  /-- Control word `CW_HOLD` (R75): the same word as `CW_ARM`, kept apart by name. -/
  | cwHold
  deriving DecidableEq, Repr

/-- The format of an instruction's row. -/
def Instr.format : Instr → Format
  | .init _ _ | .write _ _ _ | .read _ _ _ | .writeRead _ _ _ _ | .isBusy | .getStatus
  | .reservedOp6 _ | .reservedOp7 _ => .cmd
  | .startSent _ | .repStartSent _ | .slawAck _ | .txdataAck _ | .arbLost _ | .slarAck _
  | .rxdataAck _ | .rxdataNack _ | .otherSlawNack _ | .otherTxdataNack _ | .otherSlarNack _
  | .otherBusError _ | .otherNoState _ | .other _ => .evt
  | .cwArm | .cwStart | .cwNext | .cwNextAck | .cwStop | .cwHold => .ctl

end Sys2Proof
end

