-- ==== Sys2Proof/Decode.lean ====
section
/-!
DEFINITION. The encodings of spec/30_encoding.md, both ways: the command descriptor (R71), the status byte with the
default `Classify` table (R74), the control word with the default `CtrlLayout` (R75). The widths, `Classify` and
`CtrlLayout` are parameters of the model: a descriptor is read and written under a `Params`, the functions named `…With`
take the classifier, and the others use the default.
-/

namespace Sys2Proof

/-- One encoded input or output, by format (R70): the format is known from where the bits stand (the command
interface, STATUS, CTRL), not from the bits. -/
inductive Encoded where
  | command (d : Nat)
  | event (s : Byte)
  | control (w : Byte)
  deriving DecidableEq, Repr

/-- Why a word is no instruction (R77). -/
inductive DecodeError where
  /-- The number needs more bits than a descriptor has. -/
  | tooLong
  /-- A must-be-zero field `D[hi:lo]` of a command descriptor is not zero (R77 (a)). -/
  | mustBeZero (hi lo : Nat)
  /-- A control word that is none of the six (R77 (c)). -/
  | unknownControlWord
  deriving DecidableEq, Repr

/-- Status byte without the three low bits, which the default table ignores (R74, R131). -/
def statusCode (s : Byte) : Byte := s &&& 0xF8#8

/-- The default `Classify` table (R74). -/
def classify (s : Byte) : EventClass :=
  if statusCode s = 0x08#8 then .startSent
  else if statusCode s = 0x10#8 then .repStartSent
  else if statusCode s = 0x18#8 then .slawAck
  else if statusCode s = 0x28#8 then .txdataAck
  else if statusCode s = 0x38#8 then .arbLost
  else if statusCode s = 0x40#8 then .slarAck
  else if statusCode s = 0x50#8 then .rxdataAck
  else if statusCode s = 0x58#8 then .rxdataNack
  else .other

/-- The row of a status byte of class `OTHER`: one of the five codes with a known name, else the catch-all (R80). -/
def otherRow (s : Byte) : Instr :=
  if statusCode s = 0x20#8 then .otherSlawNack s
  else if statusCode s = 0x30#8 then .otherTxdataNack s
  else if statusCode s = 0x48#8 then .otherSlarNack s
  else if statusCode s = 0x00#8 then .otherBusError s
  else if statusCode s = 0xF8#8 then .otherNoState s
  else .other s

/-- Decode a status byte under the classifier `c` (R73, R80). Total: there is no illegal status byte (R77 (b)). -/
def decodeEventWith (c : Byte → EventClass) (s : Byte) : Instr :=
  match c s with
  | .startSent => .startSent s
  | .repStartSent => .repStartSent s
  | .slawAck => .slawAck s
  | .txdataAck => .txdataAck s
  | .slarAck => .slarAck s
  | .rxdataAck => .rxdataAck s
  | .rxdataNack => .rxdataNack s
  | .arbLost => .arbLost s
  | .other => otherRow s

/-- Decode a status byte under the default table. -/
def decodeEvent (s : Byte) : Instr := decodeEventWith classify s

/-- The `w` bits of a descriptor from bit `lo` up, `D[lo+w-1:lo]` (R9). -/
def bitField (d lo w : Nat) : Nat := d / 2 ^ lo % 2 ^ w

/-! The places of R71's fields. For other widths than the default "the fields keep their order and grow or shrink in
place": each field starts where the one before it ends (log entry 16). -/

/-- Lowest bit of `len1` in the transaction layout. -/
def Params.len1At (p : Params) : Nat := 16 + p.cntW

/-- Lowest bit of `buf` in the transaction layout. -/
def Params.bufAt (p : Params) : Nat := 16 + p.cntW + p.cntW

/-- Bits of the transaction layout. -/
def Params.transactionBits (p : Params) : Nat := 16 + p.cntW + p.cntW + p.addrW

/-- Lowest bit of `pre` in the initialise layout. -/
def Params.preAt (p : Params) : Nat := 8 + p.divW

/-- Bits of the initialise layout below its must-be-zero bits. -/
def Params.initBits (p : Params) : Nat := 8 + p.divW + p.preW

/-- Bits of a descriptor, one length for all commands (R70): what the longer layout needs; 48 at the default widths. -/
def Params.descriptorBits (p : Params) : Nat := max p.transactionBits p.initBits

/-- Decode a transaction descriptor whose `op` is 1, 2 or 3 and whose `D[7:3]` is zero (R71). -/
def decodeTransaction (p : Params) (d : Nat) : Except DecodeError Instr :=
  let addr7 := BitVec.ofNat 7 (bitField d 8 7)
  let len0 := bitField d 16 p.cntW
  let len1 := bitField d p.len1At p.cntW
  let buf := bitField d p.bufAt p.addrW
  if bitField d 15 1 ≠ 0 then .error (.mustBeZero 15 15)
  else if d / 2 ^ p.transactionBits ≠ 0 then .error (.mustBeZero (p.descriptorBits - 1) p.transactionBits)
  else if bitField d 0 3 = 3 then .ok (.writeRead addr7 buf len0 len1)
  else if len1 ≠ 0 then .error (.mustBeZero (p.bufAt - 1) p.len1At)
  else if bitField d 0 3 = 1 then .ok (.write addr7 buf len0)
  else .ok (.read addr7 buf len0)

/-- Decode a descriptor of the right length (R71, R77): `op` first, then the must-be-zero bits of that `op`'s layout
(R80). -/
def decodeOp (p : Params) (d : Nat) : Except DecodeError Instr :=
  let op := bitField d 0 3
  if op = 6 then .ok (.reservedOp6 (d / 2 ^ 3))
  else if op = 7 then .ok (.reservedOp7 (d / 2 ^ 3))
  else if bitField d 3 5 ≠ 0 then .error (.mustBeZero 7 3)
  else if op = 0 then
    if d / 2 ^ p.initBits ≠ 0 then .error (.mustBeZero (p.descriptorBits - 1) p.initBits)
    else .ok (.init (bitField d 8 p.divW) (bitField d p.preAt p.preW))
  else if op = 4 then
    if d / 2 ^ 8 ≠ 0 then .error (.mustBeZero (p.descriptorBits - 1) 8) else .ok .isBusy
  else if op = 5 then
    if d / 2 ^ 8 ≠ 0 then .error (.mustBeZero (p.descriptorBits - 1) 8) else .ok .getStatus
  else decodeTransaction p d

/-- Decode a command descriptor (R70, R71): a number of at most `descriptorBits` bits. -/
def decodeCommand (p : Params) (d : Nat) : Except DecodeError Instr :=
  if d < 2 ^ p.descriptorBits then decodeOp p d else .error .tooLong

/-- The fields of each named control word (R75). -/
def controlFields : CtlWord → ControlWord
  | .arm => { en := true, ie := false, sta := false, sto := false, ea := false, rearm := false }
  | .start => { en := true, ie := true, sta := true, sto := false, ea := false, rearm := true }
  | .next => { en := true, ie := true, sta := false, sto := false, ea := false, rearm := true }
  | .nextAck => { en := true, ie := true, sta := false, sto := false, ea := true, rearm := true }
  | .stop => { en := true, ie := false, sta := false, sto := true, ea := false, rearm := true }
  | .hold => { en := true, ie := false, sta := false, sto := false, ea := false, rearm := false }

/-- `CtrlLayout`: the bit position of each control-word field (R75). DESIGN CHOICE, log entry 18: CTRL is 8 bits wide, so
a position is below 8 and a control word is packed into one byte. The spec fixes no width of CTRL (R8, R31). -/
structure CtrlLayout where
  rearm : Fin 8
  ea : Fin 8
  sta : Fin 8
  sto : Fin 8
  en : Fin 8
  ie : Fin 8
  deriving DecidableEq, Repr

/-- The default `CtrlLayout` (R75): bit 7 rearm, 6 ea, 5 sta, 4 sto, 2 en, 0 ie; bits 3 and 1 are written 0. -/
def defaultLayout : CtrlLayout := { rearm := 7, ea := 6, sta := 5, sto := 4, en := 2, ie := 0 }

/-- All the rules need of a layout: the six fields are distinct bits (R75). -/
def layoutDistinct (l : CtrlLayout) : Bool :=
  decide ([l.rearm, l.ea, l.sta, l.sto, l.en, l.ie].Nodup)

/-- One field of a control word at its bit. -/
def fieldAt (p : Fin 8) (b : Bool) : Byte := if b then 1#8 <<< p.val else 0#8

/-- The byte a control word is written as under a layout (R75). -/
def packControl (l : CtrlLayout) (w : ControlWord) : Byte :=
  fieldAt l.rearm w.rearm ||| fieldAt l.ea w.ea ||| fieldAt l.sta w.sta ||| fieldAt l.sto w.sto |||
    fieldAt l.en w.en ||| fieldAt l.ie w.ie

/-- The control word a byte is under a layout. -/
def unpackControl (l : CtrlLayout) (b : Byte) : ControlWord :=
  { en := b.getLsbD l.en, ie := b.getLsbD l.ie, sta := b.getLsbD l.sta, sto := b.getLsbD l.sto,
    ea := b.getLsbD l.ea, rearm := b.getLsbD l.rearm }

/-- The byte of a named control word under the default layout. -/
def controlByte (w : CtlWord) : Byte := packControl defaultLayout (controlFields w)

/-- Read a byte as one of the named control words of the default layout. `CW_ARM` and `CW_HOLD` are one word (R75) and
read as `CW_ARM`; a byte that is none of them has no meaning (R77 (c)). The block itself decodes no control word. -/
def decodeControl (b : Byte) : Except DecodeError Instr :=
  if b = controlByte .arm then .ok .cwArm
  else if b = controlByte .start then .ok .cwStart
  else if b = controlByte .next then .ok .cwNext
  else if b = controlByte .nextAck then .ok .cwNextAck
  else if b = controlByte .stop then .ok .cwStop
  else .error .unknownControlWord

/-- Decode an input under the widths `p` and the classifier `c`. -/
def decodeWith (p : Params) (c : Byte → EventClass) : Encoded → Except DecodeError Instr
  | .command d => decodeCommand p d
  | .event s => .ok (decodeEventWith c s)
  | .control w => decodeControl w

/-- A descriptor from its fields, each a width and a value, lowest first and each where the one before it ends. -/
def joinFields : List (Nat × Nat) → Nat
  | [] => 0
  | (w, v) :: r => v + 2 ^ w * joinFields r

/-- A transaction descriptor: the fields of R71's transaction layout in order. -/
def packTransaction (p : Params) (op : Nat) (addr7 : BitVec 7) (len0 len1 : Nat) (buf : Nat) : Nat :=
  joinFields [(3, op), (5, 0), (7, addr7.toNat), (1, 0), (p.cntW, len0), (p.cntW, len1), (p.addrW, buf)]

/-- An INIT descriptor: the fields of R71's initialise layout in order. -/
def packInit (p : Params) (div pre : Nat) : Nat := joinFields [(3, 0), (5, 0), (p.divW, div), (p.preW, pre)]

/-- The bits an instruction is spelled with (R71, R73, R75). -/
def encode (p : Params) : Instr → Encoded
  | .init div pre => .command (packInit p div pre)
  | .write addr7 buf len => .command (packTransaction p 1 addr7 len 0 buf)
  | .read addr7 buf len => .command (packTransaction p 2 addr7 len 0 buf)
  | .writeRead addr7 buf wlen rlen => .command (packTransaction p 3 addr7 wlen rlen buf)
  | .isBusy => .command 4
  | .getStatus => .command 5
  | .reservedOp6 rest => .command (6 + 2 ^ 3 * rest)
  | .reservedOp7 rest => .command (7 + 2 ^ 3 * rest)
  | .startSent s => .event s
  | .repStartSent s => .event s
  | .slawAck s => .event s
  | .txdataAck s => .event s
  | .arbLost s => .event s
  | .slarAck s => .event s
  | .rxdataAck s => .event s
  | .rxdataNack s => .event s
  | .otherSlawNack s => .event s
  | .otherTxdataNack s => .event s
  | .otherSlarNack s => .event s
  | .otherBusError s => .event s
  | .otherNoState s => .event s
  | .other s => .event s
  | .cwArm => .control (controlByte .arm)
  | .cwStart => .control (controlByte .start)
  | .cwNext => .control (controlByte .next)
  | .cwNextAck => .control (controlByte .nextAck)
  | .cwStop => .control (controlByte .stop)
  | .cwHold => .control (controlByte .hold)

/-- The instruction the decoder reads from a word of the opcode table, whose words have the default widths. Rows of at
most 8 bits are status bytes (format EVT), the others command descriptors (format CMD); a word of format CTL is an
output, "not decoded by the block" (R80), so its 8 bits are read here as the status byte they also spell (log entry
13). -/
def decodeTableWord (nbits w : Nat) : Option Instr :=
  if nbits ≤ 8 then some (decodeEvent (BitVec.ofNat 8 w))
  else
    match decodeCommand Params.default w with
    | .ok i => some i
    | .error _ => none

end Sys2Proof
end

