-- ==== Sys2Proof/Machine/State.lean ====
section
/-!
DEFINITION. The machine's state (spec/10_state.md, 20_memory.md, 42_port_contract.md): TransactionState, the port's
registers, the port-private state of R37, buffer memory with its borrow, the command interface, the port trace and the
sticky fault set, the widths of the build (00_scope.md R8), and the model's own scripts of what the host and the port do
next. Plain data throughout.
-/

namespace Sys2Proof.Machine

/-- The internal outcome flag (R24); stored as Busy = 0, Success = 1, Error = 2 (D9). -/
inductive TxOutcome where
  | busy
  | success
  | error
  deriving DecidableEq, Repr

/-- `CTRL`, six one-bit fields (R31). -/
structure Ctrl where
  en : Bool
  ie : Bool
  sta : Bool
  sto : Bool
  ea : Bool
  iflag : Bool
  deriving DecidableEq, Repr

/-- Who holds the bus as far as the port's contract tells (R37 (b), R145). -/
inductive BusOwner where
  /-- A start event has been reported and no STOP or arbitration loss since. -/
  | owned
  /-- Nothing started, a STOP requested, or arbitration lost. -/
  | free
  /-- After an error the spec leaves it to the port (R149, U9). -/
  | unknown
  deriving DecidableEq, Repr

/-- Port-private state (R37, R144). No rule of the block reads it; the port's step reads `rearmed`. -/
structure PortPrivate where
  /-- The last `CtrlWrite` had `rearm = 1` (R144). -/
  rearmed : Bool
  /-- The ACK/NACK choice for the next reception (R37 (a), R141). -/
  ackLatch : Bool
  /-- Whether the port owns the bus (R37 (b)). -/
  bus : BusOwner
  /-- A STOP condition still being generated (R37 (c)). -/
  stopPending : Bool
  /-- The hold state after an error (R37 (d), R149). -/
  holding : Bool
  deriving DecidableEq, Repr

/-- The two regions lent by a transaction, fixed at acceptance (R55): base address and length of each. -/
structure Borrow where
  wbase : Nat
  wlen : Nat
  rbase : Nat
  rlen : Nat
  deriving DecidableEq, Repr

/-- One item of the port trace (R147). -/
inductive PortItem where
  /-- The block performed `CtrlWrite` of a named word. -/
  | ctl (w : CtlWord)
  /-- The block performed `DataWrite` of a byte. -/
  | dat (b : Byte)
  deriving DecidableEq, Repr

/-- One thing the host does (R198). -/
inductive HostAction where
  /-- Present a command descriptor (R90). -/
  | command (d : Nat)
  /-- Read a byte of buffer memory. -/
  | load (a : Nat)
  /-- Write a byte of buffer memory. -/
  | store (a : Nat) (v : Byte)
  deriving DecidableEq, Repr

/-- One completed protocol event: the status byte and what DATA holds then (R143). -/
structure PortEvent where
  status : Byte
  data : Byte
  deriving DecidableEq, Repr

/-- Buffer memory: (address, byte) pairs, addresses strictly rising; an unlisted address holds no written byte. -/
abbrev Memory := List Host.Cell

/-- The faults. The first five are R163's: `raise` records them in the sticky fault set and ends the step, and the run
goes on; the last is the model's own and ends the run. -/
inductive Fault where
  /-- Recorded by `storeReceived`, for RXDATA_ACK and RXDATA_NACK: a byte was received and `rcnt = 0` (R122). Safe for a
  claim that assumes no fault recorded (R36); unsafe for one about what comes after. -/
  | cursorUnderflow
  /-- Recorded by `startTransaction`, for WRITE, READ and WRITEREAD: `CTRL.en = 0` (R92). Safe and unsafe as above. -/
  | notInitialized
  /-- Recorded by INIT while a transaction is in flight (R91). Safe and unsafe as above. -/
  | initWhileBusy
  /-- Recorded by `startTransaction`: a region crosses the top of the address space (R62, R92). Safe and unsafe as
  above. -/
  | bufferWrap
  /-- Recorded by a host load or store that touches a lent region (R55). Safe and unsafe as above. -/
  | borrowViolation
  /-- Answered by a host load or store at an address of more than `ADDR_W` bits, which does not exist (R50). Safe. -/
  | noSuchAddress
  deriving DecidableEq, Repr

/-- The state. Field names are the spec's (R10). -/
structure State where
  /-- The widths of this build of the block (R8): a parameter, never written. -/
  params : Params
  /-- targetAddress, direction in bit 0 (R21). -/
  ta : Byte
  /-- Write cursor, address of the next byte to transmit (R22). -/
  wptr : Nat
  /-- Write cursor, bytes still to transmit (R22). -/
  wcnt : Nat
  /-- Read cursor, address where the next received byte goes (R23). -/
  rptr : Nat
  /-- Read cursor, bytes still to receive (R23). -/
  rcnt : Nat
  /-- Result of the transaction (R24). -/
  outcome : TxOutcome
  /-- Error signature: the raw status byte of the last error (R25). -/
  errsig : Byte
  /-- Port register CTRL (R31). -/
  ctrl : Ctrl
  /-- Port register DATA, shared TX/RX (R32). -/
  data : Byte
  /-- Port register STATUS (R33). -/
  status : Byte
  /-- Port register CLKDIV (R34). -/
  clkdiv : Nat
  /-- Port register CLKPRE (R34). -/
  clkpre : Nat
  /-- Port-private state (R37). -/
  port : PortPrivate
  /-- Buffer memory (R50). -/
  mem : Memory
  /-- The regions lent by the last accepted transaction, until the host has seen idle (R55, log entry 10). -/
  borrow : Option Borrow
  /-- The descriptor presented at the command interface and not yet accepted (R90). -/
  presented : Option Nat
  /-- What the last accepted command returned: one bit, or nothing (R76). -/
  response : Option (BitVec 1)
  /-- The byte the last host load returned (R198). -/
  hostByte : Option Byte
  /-- The port trace, oldest first (R147). -/
  trace : List PortItem
  /-- The sticky fault set (R11, R163): no fault twice, in the order recorded; nothing clears it. -/
  faults : List Fault
  /-- MODEL'S OWN: what the host does next, in order (R197 "the host's script"). -/
  hostScript : List HostAction
  /-- MODEL'S OWN: the events the port delivers next, in order (R144 "a script of events"). -/
  portScript : List PortEvent
  /-- MODEL'S OWN: the agents that move next, in order (R7, R56). -/
  schedule : List Agent
  /-- MODEL'S OWN: how many free values have been drawn. -/
  draws : Nat
  deriving DecidableEq, Repr

/-- Inputs to which the block gives no meaning. -/
inductive Refusal where
  /-- An instruction of the opcode table with no meaning in the model yet; raised by no arm. Safe. -/
  | notModelled (mnemonic : String)
  /-- Raised by the host's step on a descriptor that spells no command, and by RESERVED_OP6 and RESERVED_OP7: reserved
  `op` or a nonzero must-be-zero bit (R77, D21). Safe: the run ends there, which is the model's choice (log entry 19). -/
  | illegalCommand
  deriving DecidableEq, Repr

/-- The state right after a hardware reset of a build with the widths `p` (R39, R180). CTRL is the spec's; every
register the spec leaves unspecified has the value of log entries 4, 5 and 6; the scripts are empty (log entry 7). -/
def State.resetWith (p : Params) : State where
  params := p
  ta := 0
  wptr := 0
  wcnt := 0
  rptr := 0
  rcnt := 0
  outcome := .busy
  errsig := 0
  ctrl := { en := false, ie := false, sta := false, sto := false, ea := false, iflag := false }
  data := 0xFF
  status := 0xF8
  clkdiv := 0
  clkpre := 0
  port := { rearmed := false, ackLatch := false, bus := .free, stopPending := false, holding := false }
  mem := []
  borrow := none
  presented := none
  response := none
  hostByte := none
  trace := []
  faults := []
  hostScript := []
  portScript := []
  schedule := []
  draws := 0

/-- The state right after a hardware reset of the default build (log entry 1). -/
def State.reset : State := State.resetWith Params.default

end Sys2Proof.Machine
end

