-- ==== Sys2Proof/Machine/Flags.lean ====
section
/-!
DEFINITION. The single bits that act as flags (spec/10_state.md R29): busy, event pending, direction, result.
-/

namespace Sys2Proof.Machine

/-- Busy, in flight: `CTRL.ie` (R29). -/
def busy (s : State) : Bool := s.ctrl.ie

/-- The interrupt line `CTRL.iflag and CTRL.ie` (R143): the sequencer has a step exactly then (R110). -/
def eventEnabled (s : State) : Bool := s.ctrl.iflag && s.ctrl.ie

/-- The direction flip, exclusive-or with 1 (R117, D20). -/
def flipDirection (ta : Byte) : Byte := ta ^^^ 0x01#8

/-- The stored code of `outcome` (R24, D9). -/
def outcomeCode : TxOutcome → BitVec 2
  | .busy => 0#2
  | .success => 1#2
  | .error => 2#2

/-- ISBUSY's result: 1 for busy, 0 for idle (R76). -/
def busyBit (s : State) : BitVec 1 := if busy s then 1#1 else 0#1

end Sys2Proof.Machine
end

