-- ==== Sys2Proof/Machine/Operands.lean ====
section
/-!
DEFINITION. How operands are assembled and what a transaction's regions are (spec/30_encoding.md R72, 20_memory.md R55,
R62).
-/

namespace Sys2Proof.Machine

/-- `AddrByte(addr7, dir) = (addr7 << 1) or dir` (R72); `dir` is 0 for write and 1 for read. -/
def addrByte (addr7 : BitVec 7) (dir : BitVec 1) : Byte :=
  (addr7.setWidth 8 <<< 1) ||| dir.setWidth 8

/-- The region `[base, base + len)` crosses the top of an address space of `w`-bit addresses (R62). -/
def regionWraps (w : Nat) (base : Nat) (len : Nat) : Bool := decide (2 ^ w < base + len)

/-- The address lies in the region `[base, base + len)` (R55). -/
def inRegion (base : Nat) (len : Nat) (a : Nat) : Bool := decide (base ≤ a) && decide (a < base + len)

/-- The address after `a`, modulo two to the width (R131). -/
def nextAddr (w : Nat) (a : Nat) : Nat := (a + 1) % 2 ^ w

/-- A host read of `a` touches a region lent by `b`: only the read region forbids reads (R55). -/
def Borrow.forbidsLoad (b : Borrow) (a : Nat) : Bool := inRegion b.rbase b.rlen a

/-- A host write of `a` touches a region lent by `b`: both regions forbid writes (R55). -/
def Borrow.forbidsStore (b : Borrow) (a : Nat) : Bool :=
  inRegion b.rbase b.rlen a || inRegion b.wbase b.wlen a

end Sys2Proof.Machine
end

