-- ==== Sys2Proof/Machine/Ops.lean ====
section
/-!
DEFINITION. The named operations every meaning is written over: buffer memory (spec/20_memory.md R53), the port's
registers (42_port_contract.md R141 to R143), raising a fault (00_scope.md R11), command acceptance
(40_host_commands.md R90, R92), event entry (41_sequencer_events.md R110, 60_exceptions.md R164 to R167) and the shared
bodies of R117, R119, R122, R124.
-/

namespace Sys2Proof.Machine

/-- What a step answers. -/
abbrev Result := Host.Outcome State Fault Refusal

/-! ### Buffer memory -/

/-- The written byte at an address, if any. -/
def memGet : Memory → Nat → Option Byte
  | [], _ => none
  | (b, u) :: m, a => if a = b then some u else memGet m a

/-- Write a byte, keeping addresses strictly rising. -/
def memPut : Memory → Nat → Byte → Memory
  | [], a, v => [(a, v)]
  | (b, u) :: m, a, v =>
    if a < b then (a, v) :: (b, u) :: m
    else if a = b then (a, v) :: m
    else (b, u) :: memPut m a v

/-- Addresses are strictly rising, the first at least `lo`. -/
def risingFrom : Nat → Memory → Bool
  | _, [] => true
  | lo, (a, _) :: m => decide (lo ≤ a) && risingFrom (a + 1) m

/-- The canonical form: addresses strictly rising. An unlisted address has no written byte, so no entry equals what an
unlisted address holds. -/
def Memory.wf (m : Memory) : Bool := risingFrom 0 m

/-- The byte an unlisted address reads as: a free value of the address (log entry 3). -/
def unlistedByte (a : Nat) : Byte := Config.unwrittenByte a

/-- `MemRead(a, 1)` (R53). -/
def memRead (s : State) (a : Nat) : Byte := (memGet s.mem a).getD (unlistedByte a)

/-- `MemWrite(a, 1, v)` (R53). -/
def memWrite (a : Nat) (v : Byte) (s : State) : State := { s with mem := memPut s.mem a v }

/-! ### The port's registers -/

/-- What a control write does to the port-private state: `ea` is latched for the next reception (R141), `rearm` says
whether the port may proceed (R144), `sto` requests a STOP (R148), `CW_HOLD` leaves the port held with the bus in its
own hands (R149). DEDUCED, log entry 6. -/
def portLatch (w : CtlWord) (p : PortPrivate) : PortPrivate :=
  let f := controlFields w
  { rearmed := f.rearm
    ackLatch := f.ea
    bus := if f.sto then .free else if w = .hold then .unknown else p.bus
    stopPending := f.sto || p.stopPending
    holding := if f.rearm then false else decide (w = .hold) || p.holding }

/-- `CtrlWrite(W)` (R141): one atomic write of the five fields, `iflag` cleared if `rearm = 1`, one trace item. -/
def ctrlWrite (w : CtlWord) (s : State) : State :=
  let f := controlFields w
  { s with
    ctrl := { en := f.en, ie := f.ie, sta := f.sta, sto := f.sto, ea := f.ea,
              iflag := if f.rearm then false else s.ctrl.iflag }
    port := portLatch w s.port
    trace := s.trace ++ [.ctl w] }

/-- `DataWrite(b)` (R142). -/
def dataWrite (b : Byte) (s : State) : State := { s with data := b, trace := s.trace ++ [.dat b] }

/-- `DataRead()` (R142). -/
def dataRead (s : State) : Byte := s.data

/-- `StatusRead()` (R33). -/
def statusRead (s : State) : Byte := s.status

/-! ### Faults -/

/-- A set of faults with one more in it. -/
def recordFault (f : Fault) (l : List Fault) : List Fault := if l.contains f then l else l ++ [f]

/-- `raise` (R11): the fault goes into the sticky fault set, and the step ends with no further change. -/
def raise (f : Fault) (s : State) : State := { s with faults := recordFault f s.faults }

/-! ### Command acceptance -/

/-- A command leaves the interface and returns `r` (R76, R90). -/
def accept (r : Option (BitVec 1)) (s : State) : State := { s with presented := none, response := r }

/-- A command that raises a fault: it is over, not held (D16; log entry 12), and returns nothing. -/
def rejectCommand (f : Fault) (s : State) : State := raise f (accept none s)

/-- The busy interlock (R90): while `CTRL.ie = 1` a transaction command is held and changes nothing. -/
def interlock (s accepted : State) : Result := .next (if busy s then s else accepted)

/-- `StartTransaction(a, wp, wc, rp, rc)` (R92), with the borrow it begins (R55). NotInitialized is tested before
BufferWrap (log entry 14). -/
def startTransaction (a : Byte) (wp : Nat) (wc : Nat) (rp : Nat) (rc : Nat) (s : State) : State :=
  if !s.ctrl.en then rejectCommand .notInitialized s
  else if regionWraps s.params.addrW wp wc || regionWraps s.params.addrW rp rc then rejectCommand .bufferWrap s
  else
    ctrlWrite .start
      { accept none s with
        ta := a, wptr := wp, wcnt := wc, rptr := rp, rcnt := rc, outcome := .busy
        borrow := some { wbase := wp, wlen := wc, rbase := rp, rlen := rc } }

/-- The host has seen idle: the borrow ends (R55, R58). While busy it lasts. -/
def observeIdle (s : State) : State := { s with borrow := if busy s then s.borrow else none }

/-! ### Event entry and the shared bodies -/

/-- Taking the port's interrupt (R110, R164 to R167): entry saves nothing; with the line low there is no step and
nothing changes. The control write that ends `body` is the return. -/
def takeEvent (s body : State) : Result := .next (if eventEnabled s then body else s)

/-- Load one byte from the write cursor into DATA and advance it (R117, first arm, without its control write). -/
def sendNextByte (s : State) : State :=
  let s' := dataWrite (memRead s s.wptr) s
  { s' with wptr := nextAddr s.params.addrW s'.wptr, wcnt := s'.wcnt - 1 }

/-- A terminal success: `outcome <- Success`, then `CW_STOP` (R117 third arm, R121, R133). -/
def finishSuccess (s : State) : State := ctrlWrite .stop { s with outcome := .success }

/-- `TxAdvance()` (R117). -/
def txAdvance (s : State) : State :=
  if s.wcnt ≠ 0 then ctrlWrite .next (sendNextByte s)
  else if s.rcnt ≠ 0 then ctrlWrite .start { s with ta := flipDirection s.ta }
  else finishSuccess s

/-- `ArmReceive()`, the lookahead decision (R119). -/
def armReceive (s : State) : State := ctrlWrite (if 1 < s.rcnt then .nextAck else .next) s

/-- `StoreReceived(d)` without its guard: store through the read cursor and advance it (R122). -/
def storeByte (d : Byte) (s : State) : State :=
  let s' := memWrite s.rptr d s
  { s' with rptr := nextAddr s.params.addrW s'.rptr, rcnt := s'.rcnt - 1 }

/-- `StoreReceived(d)` (R122) and the rest of the step after it: a byte with no room left is `CursorUnderflow`:
no store and no control write. -/
def storeReceived (d : Byte) (s : State) (rest : State → State) : State :=
  if s.rcnt = 0 then raise .cursorUnderflow s else rest (storeByte d s)

/-- The address byte goes into DATA (R113, R114). -/
def sendAddress (s : State) : State := ctrlWrite .next (dataWrite s.ta s)

/-- The block's error path (R124): capture the raw status byte, `outcome <- Error`, hold. -/
def endWithError (b : Byte) (s : State) : State := ctrlWrite .hold { s with errsig := b, outcome := .error }

/-! ### Host memory accesses -/

/-- The address is one of buffer memory's (R50). -/
def addrExists (s : State) (a : Nat) : Bool := decide (a < 2 ^ s.params.addrW)

/-- The borrow lasts and forbids the access (R55). The terminal step does not end it: it lasts until the host has seen
idle (R183, R198), that is until an ISBUSY returned 0 (R58). DEDUCED beside R168's idle row, log entry 10. -/
def lentOut (forbids : Borrow → Bool) (s : State) : Bool := (s.borrow.map forbids).getD false

/-- The host reads a byte of buffer memory (R55, R183, R198). -/
def hostLoad (a : Nat) (s : State) : Result :=
  if !addrExists s a then .fault .noSuchAddress
  else if lentOut (fun b => b.forbidsLoad a) s then .next (raise .borrowViolation s)
  else .next { s with hostByte := some (memRead s a) }

/-- The host writes a byte of buffer memory (R55, R183, R198). -/
def hostStore (a : Nat) (v : Byte) (s : State) : Result :=
  if !addrExists s a then .fault .noSuchAddress
  else if lentOut (fun b => b.forbidsStore a) s then .next (raise .borrowViolation s)
  else .next (memWrite a v s)

/-! ### The port -/

/-- The port has a step (R144). -/
def portEnabled (s : State) : Bool := s.ctrl.en && !s.ctrl.iflag && s.port.rearmed

/-- What a delivered event says of the port-private state: a start event means the port owns the bus, a lost
arbitration that it does not, and any event that an earlier STOP is over (R145, R150). DEDUCED, log entry 6. -/
def portObserve (c : EventClass) (p : PortPrivate) : PortPrivate :=
  { p with
    bus :=
      match c with
      | .startSent | .repStartSent => .owned
      | .arbLost => .free
      | _ => p.bus
    stopPending := false }

/-- The port completes an event (R143): STATUS, DATA and `iflag` in one action. `c` is the event's class. -/
def deliver (c : EventClass) (e : PortEvent) (s : State) : State :=
  { s with
    status := e.status
    data := e.data
    ctrl := { s.ctrl with iflag := true }
    port := portObserve c s.port }

/-- The next event: the script's, else one of free values (R144). -/
def nextEvent (s : State) : PortEvent × State :=
  match s.portScript with
  | e :: r => (e, { s with portScript := r })
  | [] => ({ status := Config.freeStatus s.draws, data := Config.freeData s.draws }, { s with draws := s.draws + 1 })

/-- The port's step (R144). The classifier only feeds the port-private state. -/
def portStep (c : Byte → EventClass) (s : State) : State :=
  if portEnabled s then
    let (e, s') := nextEvent s
    deliver (c e.status) e s'
  else s

/-- The agent that moves, taken from the schedule, else a free value (R7). -/
def nextAgent (s : State) : Agent × State :=
  match s.schedule with
  | a :: r => (a, { s with schedule := r })
  | [] => (Config.freeAgent s.draws, { s with draws := s.draws + 1 })

end Sys2Proof.Machine
end

