-- ==== Sys2Proof/Machine/Commands.lean ====
section
/-!
DEFINITION. The host commands (spec/40_host_commands.md R91, R93 to R97) and the two reserved `op` values (R77).
-/

namespace Sys2Proof.Machine

/-- INIT (R91): cursors to zero, clock registers, `CW_ARM`; DATA is left (log entry 9). While a transaction is in flight
it is InitWhileBusy. -/
def execInit (div pre : Nat) (s : State) : Result :=
  if busy s then .next (rejectCommand .initWhileBusy s)
  else
    .next (ctrlWrite .arm
      { accept none s with wptr := 0, wcnt := 0, rptr := 0, rcnt := 0, clkdiv := div, clkpre := pre })

/-- WRITE (R93). -/
def execWrite (addr7 : BitVec 7) (buf : Nat) (len : Nat) (s : State) : Result :=
  interlock s (startTransaction (addrByte addr7 0#1) buf len 0 0 s)

/-- READ (R94). -/
def execRead (addr7 : BitVec 7) (buf : Nat) (len : Nat) (s : State) : Result :=
  interlock s (startTransaction (addrByte addr7 1#1) 0 0 buf len s)

/-- WRITEREAD (R95): one acceptance installs both cursors on the same buffer. -/
def execWriteRead (addr7 : BitVec 7) (buf : Nat) (wlen rlen : Nat) (s : State) : Result :=
  interlock s (startTransaction (addrByte addr7 0#1) buf wlen buf rlen s)

/-- ISBUSY (R96); returning idle is the host's observation that ends the borrow (R55, R58). -/
def execIsBusy (s : State) : Result := .next (observeIdle (accept (some (busyBit s)) s))

/-- GETSTATUS (R97): 0 for Success, 1 for Error, a free draw while Busy (D10). -/
def execGetStatus (s : State) : Result :=
  match s.outcome with
  | .success => .next (accept (some 0#1) s)
  | .error => .next (accept (some 1#1) s)
  | .busy => .next { accept (some (Config.freeResult s.draws)) s with draws := s.draws + 1 }

/-- RESERVED_OP6 (R77): refused, and the run ends there (DESIGN CHOICE, log entry 19). -/
def execReservedOp6 (_rest : Nat) (_s : State) : Result := .refused .illegalCommand

/-- RESERVED_OP7 (R77): refused, and the run ends there (DESIGN CHOICE, log entry 19). -/
def execReservedOp7 (_rest : Nat) (_s : State) : Result := .refused .illegalCommand

end Sys2Proof.Machine
end

