-- ==== Sys2Proof/Machine/Control.lean ====
section
/-!
DEFINITION. The control words as instructions: `CtrlWrite` of each (spec/30_encoding.md R75, 42_port_contract.md R141).
Each is performed inside the steps that write it (log entry 13).
-/

namespace Sys2Proof.Machine

/-- CW_ARM: armed, interrupts disabled, no further bus action. -/
def execCwArm (s : State) : Result := .next (ctrlWrite .arm s)

/-- CW_START: request a START or repeated START. -/
def execCwStart (s : State) : Result := .next (ctrlWrite .start s)

/-- CW_NEXT: next step of the transfer, answering a received byte with NACK. -/
def execCwNext (s : State) : Result := .next (ctrlWrite .next s)

/-- CW_NEXT_ACK: next step of the transfer, answering a received byte with ACK. -/
def execCwNextAck (s : State) : Result := .next (ctrlWrite .nextAck s)

/-- CW_STOP: request a STOP, interrupts disabled. -/
def execCwStop (s : State) : Result := .next (ctrlWrite .stop s)

/-- CW_HOLD: interrupts disabled, the port enabled but idle. -/
def execCwHold (s : State) : Result := .next (ctrlWrite .hold s)

end Sys2Proof.Machine
end

