-- ==== Sys2Proof/Machine/Events.lean ====
section
/-!
DEFINITION. The sequencer's reaction to each event class (spec/41_sequencer_events.md R113 to R124). Dispatch is on the
class alone (R111); the first operand is the status byte, and only class OTHER uses its value.
-/

namespace Sys2Proof.Machine

/-- START_SENT (R113). -/
def execStartSent (_b : Byte) (s : State) : Result := takeEvent s (sendAddress s)

/-- REP_START_SENT (R114). -/
def execRepStartSent (_b : Byte) (s : State) : Result := takeEvent s (sendAddress s)

/-- SLAW_ACK (R115). -/
def execSlawAck (_b : Byte) (s : State) : Result := takeEvent s (txAdvance s)

/-- TXDATA_ACK (R116). -/
def execTxdataAck (_b : Byte) (s : State) : Result := takeEvent s (txAdvance s)

/-- ARB_LOST (R123): re-issue START; nothing else changes. -/
def execArbLost (_b : Byte) (s : State) : Result := takeEvent s (ctrlWrite .start s)

/-- SLAR_ACK (R118). -/
def execSlarAck (_b : Byte) (s : State) : Result := takeEvent s (armReceive s)

/-- RXDATA_ACK (R120): store, then arm with the decremented count. -/
def execRxdataAck (_b : Byte) (s : State) : Result := takeEvent s (storeReceived (dataRead s) s armReceive)

/-- RXDATA_NACK (R121): store, then end with Success. -/
def execRxdataNack (_b : Byte) (s : State) : Result := takeEvent s (storeReceived (dataRead s) s finishSuccess)

/-- OTHER, address (write) not acknowledged (R124). -/
def execOtherSlawNack (b : Byte) (s : State) : Result := takeEvent s (endWithError b s)

/-- OTHER, data byte not acknowledged (R124). -/
def execOtherTxdataNack (b : Byte) (s : State) : Result := takeEvent s (endWithError b s)

/-- OTHER, address (read) not acknowledged (R124). -/
def execOtherSlarNack (b : Byte) (s : State) : Result := takeEvent s (endWithError b s)

/-- OTHER, bus error (R124). -/
def execOtherBusError (b : Byte) (s : State) : Result := takeEvent s (endWithError b s)

/-- OTHER, no relevant state (R124). -/
def execOtherNoState (b : Byte) (s : State) : Result := takeEvent s (endWithError b s)

/-- OTHER, any other status code (R124). -/
def execOther (b : Byte) (s : State) : Result := takeEvent s (endWithError b s)

end Sys2Proof.Machine
end

