-- ==== Sys2Proof/Machine/Dispatch.lean ====
section
/-!
DEFINITION. One arm per row of opcode_table.json, each a direct call of its meaning.
-/

namespace Sys2Proof.Machine

def exec (i : Instr) (s : State) : Host.Outcome State Fault Refusal :=
  match i with
  -- host commands
  | .init div pre => Sys2Proof.Machine.execInit div pre s
  | .write addr7 buf len => Sys2Proof.Machine.execWrite addr7 buf len s
  | .read addr7 buf len => Sys2Proof.Machine.execRead addr7 buf len s
  | .writeRead addr7 buf wlen rlen => Sys2Proof.Machine.execWriteRead addr7 buf wlen rlen s
  | .isBusy => Sys2Proof.Machine.execIsBusy s
  | .getStatus => Sys2Proof.Machine.execGetStatus s
  | .reservedOp6 rest => Sys2Proof.Machine.execReservedOp6 rest s
  | .reservedOp7 rest => Sys2Proof.Machine.execReservedOp7 rest s
  -- port events
  | .startSent b => Sys2Proof.Machine.execStartSent b s
  | .repStartSent b => Sys2Proof.Machine.execRepStartSent b s
  | .slawAck b => Sys2Proof.Machine.execSlawAck b s
  | .txdataAck b => Sys2Proof.Machine.execTxdataAck b s
  | .arbLost b => Sys2Proof.Machine.execArbLost b s
  | .slarAck b => Sys2Proof.Machine.execSlarAck b s
  | .rxdataAck b => Sys2Proof.Machine.execRxdataAck b s
  | .rxdataNack b => Sys2Proof.Machine.execRxdataNack b s
  | .otherSlawNack b => Sys2Proof.Machine.execOtherSlawNack b s
  | .otherTxdataNack b => Sys2Proof.Machine.execOtherTxdataNack b s
  | .otherSlarNack b => Sys2Proof.Machine.execOtherSlarNack b s
  | .otherBusError b => Sys2Proof.Machine.execOtherBusError b s
  | .otherNoState b => Sys2Proof.Machine.execOtherNoState b s
  | .other b => Sys2Proof.Machine.execOther b s
  -- control words
  | .cwArm => Sys2Proof.Machine.execCwArm s
  | .cwStart => Sys2Proof.Machine.execCwStart s
  | .cwNext => Sys2Proof.Machine.execCwNext s
  | .cwNextAck => Sys2Proof.Machine.execCwNextAck s
  | .cwStop => Sys2Proof.Machine.execCwStop s
  | .cwHold => Sys2Proof.Machine.execCwHold s

end Sys2Proof.Machine
end

