-- ==== Sys2Proof/Machine/Agents.lean ====
section
/-!
DEFINITION. One step of each agent (spec/00_scope.md R7): the host's command interface (R90), the sequencer's fetch of
the pending event (R110), the port's event (R144), and the step of the machine as the step of the agent whose turn it is
(R56). The classifier is a parameter (R74, D7).
-/

namespace Sys2Proof.Machine

/-- Run the descriptor presented at the command interface; one that spells no command is refused (R77). DESIGN CHOICE, log
entry 19: the refusal is the step's whole answer (R12), with no next state, so the model has no step of any agent after
it. The spec says that no state changes, not whether the descriptor leaves the interface and the host goes on. -/
def runDescriptor (d : Nat) (s : State) : Result :=
  match decodeCommand s.params d with
  | .ok i => exec i s
  | .error _ => .refused .illegalCommand

/-- The host's step (R90, R198): try the presented command again, else do the script's next action. While a command is
held the host issues nothing else. -/
def hostStep (s : State) : Result :=
  match s.presented with
  | some d => runDescriptor d s
  | none =>
    match s.hostScript with
    | [] => .next s
    | .command d :: r => runDescriptor d { s with presented := some d, hostScript := r }
    | .load a :: r => hostLoad a { s with hostScript := r }
    | .store a v :: r => hostStore a v { s with hostScript := r }

/-- The sequencer's step (R110): read STATUS, classify, run that class's rule. -/
def sequencerStep (c : Byte → EventClass) (s : State) : Result := exec (decodeEventWith c (statusRead s)) s

/-- The step of one agent. -/
def agentStep (c : Byte → EventClass) (a : Agent) (s : State) : Result :=
  match a with
  | .host => hostStep s
  | .sequencer => sequencerStep c s
  | .port => .next (portStep c s)

/-- The machine's step under the classifier `c`. -/
def stepWith (c : Byte → EventClass) (s : State) : Result :=
  let (a, s') := nextAgent s
  agentStep c a s'

/-- Place a word of the opcode table where the next step runs it: a status byte in STATUS with its event pending and
serviceable (DATA, the operand's bits above the byte, zero) and the sequencer's turn; a descriptor at the command
interface and the host's turn. -/
def placeWord (s : State) (nbits w : Nat) : State :=
  if nbits ≤ 8 then
    { s with
      status := BitVec.ofNat 8 w
      data := 0
      ctrl := { s.ctrl with ie := true, iflag := true }
      schedule := .sequencer :: s.schedule }
  else { s with presented := some w, schedule := .host :: s.schedule }

end Sys2Proof.Machine
end

