-- ==== Sys2Proof/Machine/Step.lean ====
section
/-!
DEFINITION. The step of the machine, with the default `Classify` table, and the host's placement of a word.
-/

namespace Sys2Proof.Machine

/-- One step: the agent whose turn it is moves (R7, R56). -/
def step (s : State) : Host.Outcome State Fault Refusal := stepWith classify s

/-- `s` with the table word `w` stored where the next step fetches (log entry 7). -/
def State.withFetchWord (s : State) (nbits w : Nat) : State := placeWord s nbits w

end Sys2Proof.Machine
end

