-- ==== Sys2Proof/Safety.lean ====
section
/-!
DEFINITION. The terms claims are stated in: the projection of the port trace (spec/42_port_contract.md R147), the
invariants of 10_state.md R36, what a lent region is (20_memory.md R55, R62), the phase view (41_sequencer_events.md
R132) and the well-behaved port (42_port_contract.md R145), the end of a run (70_reset_and_hazards.md R197).
-/

namespace Sys2Proof.Safety

open Sys2Proof.Machine

/-! ### Groups of instructions -/

/-- The three commands that start a transaction (R92). -/
def isTransaction : Instr → Bool
  | .write _ _ _ | .read _ _ _ | .writeRead _ _ _ _ => true
  | _ => false

/-- The two start events (R113, R114). -/
def isStartEvent : Instr → Bool
  | .startSent _ | .repStartSent _ => true
  | _ => false

/-- The two events whose body is TxAdvance (R115, R116). -/
def isTransmitEvent : Instr → Bool
  | .slawAck _ | .txdataAck _ => true
  | _ => false

/-- The two events that receive a byte (R120, R121). -/
def isReceiveEvent : Instr → Bool
  | .rxdataAck _ | .rxdataNack _ => true
  | _ => false

/-- The six rows of class OTHER (R124). -/
def isOtherEvent : Instr → Bool
  | .otherSlawNack _ | .otherTxdataNack _ | .otherSlarNack _ | .otherBusError _ | .otherNoState _ | .other _ => true
  | _ => false

/-! ### The port trace -/

/-- One item of the source's "Hardware Port observed sequence" (R147). -/
inductive BusItem where
  | start
  | byte (b : Byte)
  | stop
  deriving DecidableEq, Repr

/-- The projection of one trace item (R147): a word with `sta` is START, a word with `sto` is STOP, a byte itself. -/
def projectItem : PortItem → List BusItem
  | .ctl w => if (controlFields w).sta then [.start] else if (controlFields w).sto then [.stop] else []
  | .dat b => [.byte b]

/-- The projection of the port trace (R147). -/
def projectTrace (l : List PortItem) : List BusItem := l.flatMap projectItem

/-- The control words of a trace, oldest first. -/
def controlWords : List PortItem → List CtlWord
  | [] => []
  | .ctl w :: l => w :: controlWords l
  | .dat _ :: l => controlWords l

/-- The last control word of a trace. -/
def lastWord (l : List PortItem) : Option CtlWord := (controlWords l).getLast?

/-! ### Invariants of every state (R36, R31) -/

/-- I1, I2, I3 and I7 of R36. "At least one transaction command accepted" is a `CW_START` in the trace, "after the
first INIT" any control word in it. -/
structure Inv (s : State) : Prop where
  /-- I1: in flight, the outcome is Busy. -/
  busyWhileInFlight : s.ctrl.ie = true → s.outcome = .busy
  /-- I2: once a transaction command was accepted, Busy means in flight. -/
  inFlightWhileBusy : PortItem.ctl .start ∈ s.trace → s.outcome = .busy → s.ctrl.ie = true
  /-- I3: once a control word was written, the port is enabled. -/
  enabledOnceArmed : controlWords s.trace ≠ [] → s.ctrl.en = true
  /-- I7: a STOP is requested only together with `ie = 0`. -/
  stopOnlyWhenIdle : s.ctrl.sto = true → s.ctrl.ie = false

/-- CTRL holds the fields of the last control word written, all zero before the first one, and the port's `rearmed` and
ACK latch are that word's (R31, R37, R75, R141, R144). -/
def CtrlIsLastWord (s : State) : Prop :=
  match lastWord s.trace with
  | none =>
    s.ctrl.en = false ∧ s.ctrl.ie = false ∧ s.ctrl.sta = false ∧ s.ctrl.sto = false ∧ s.ctrl.ea = false ∧
      s.port.rearmed = false ∧ s.port.ackLatch = false
  | some w =>
    s.ctrl.en = (controlFields w).en ∧ s.ctrl.ie = (controlFields w).ie ∧ s.ctrl.sta = (controlFields w).sta ∧
      s.ctrl.sto = (controlFields w).sto ∧ s.ctrl.ea = (controlFields w).ea ∧
      s.port.rearmed = (controlFields w).rearm ∧ s.port.ackLatch = (controlFields w).ea

/-- A cursor inside the region it was installed on, in an address space of `w`-bit addresses: `cnt` bytes of it are left
and the pointer stands at the first of them (R36 I5, I6; the pointer is modulo two to the width, R131). -/
def cursorOn (w : Nat) (base : Nat) (len : Nat) (ptr : Nat) (cnt : Nat) : Prop :=
  base + len ≤ 2 ^ w ∧ cnt ≤ len ∧ ptr = (base + (len - cnt)) % 2 ^ w

/-- While a transaction is in flight its regions are lent and both cursors stand inside them (R36 I6, R55, R62). -/
def CursorsInBorrow (s : State) : Prop :=
  s.ctrl.ie = true →
    ∃ b, s.borrow = some b ∧ cursorOn s.params.addrW b.wbase b.wlen s.wptr s.wcnt ∧
      cursorOn s.params.addrW b.rbase b.rlen s.rptr s.rcnt

/-- Every register of a parametric width, and every address of buffer memory with a written byte, fits that width (R22,
R23, R34, R50). -/
structure FitsWidths (s : State) : Prop where
  wptr : s.wptr < 2 ^ s.params.addrW
  wcnt : s.wcnt < 2 ^ s.params.cntW
  rptr : s.rptr < 2 ^ s.params.addrW
  rcnt : s.rcnt < 2 ^ s.params.cntW
  clkdiv : s.clkdiv < 2 ^ s.params.divW
  clkpre : s.clkpre < 2 ^ s.params.preW
  mem : ∀ a v, (a, v) ∈ s.mem → a < 2 ^ s.params.addrW

/-- A run of the model is over (R197): nothing presented or left to issue, idle, no fault recorded. -/
def runOver (s : State) : Bool :=
  s.hostScript.isEmpty && s.presented.isNone && !s.ctrl.ie && s.faults.isEmpty

/-! ### The phase view (R132) -/

/-- Where a transaction stands on a well-behaved port. -/
inductive Phase where
  | idle
  | awaitStart
  /-- The address byte is going out; `reading` is its direction bit. -/
  | addrSent (reading : Bool)
  | transmit
  /-- A byte is coming in; `ack` is the answer it was armed with. -/
  | receive (ack : Bool)
  | errorHold
  deriving DecidableEq, Repr

/-- The phase as a function of the port trace, newest item first. A derived view: no rule of the block reads it. -/
def phaseOf : List PortItem → Phase
  | .ctl .start :: _ => .awaitStart
  | .ctl .hold :: _ => .errorHold
  | .ctl .nextAck :: _ => .receive true
  | .ctl .next :: .dat a :: .ctl .start :: _ => .addrSent (a.getLsbD 0)
  | .ctl .next :: .dat _ :: _ => .transmit
  | .ctl .next :: _ => .receive false
  | _ => .idle

/-- The phase of a state. -/
def phase (s : State) : Phase := phaseOf s.trace.reverse

/-! ### The well-behaved port (R145): a named restriction, not a rule of the block -/

/-- The event classes that may follow the last request, leaving aside who owns the bus (R145's table). DEDUCED, log
entry 17: after CW_NEXT_ACK in the receive phase R145 lists no ARB_LOST, while R132's Receive row and R161 ("any request
but `CW_STOP`") would have it; the model takes R145's table, which both of them rest on. -/
def phaseAllows : Phase → EventClass → Bool
  | .awaitStart, .startSent | .awaitStart, .repStartSent | .awaitStart, .arbLost | .awaitStart, .other => true
  | .addrSent false, .slawAck | .addrSent true, .slarAck | .addrSent _, .arbLost | .addrSent _, .other => true
  | .transmit, .txdataAck | .transmit, .arbLost | .transmit, .other => true
  | .receive true, .rxdataAck | .receive true, .other => true
  | .receive false, .rxdataNack | .receive false, .arbLost | .receive false, .other => true
  | _, _ => false

/-- A START on a bus the port owns is a repeated START; in the hold state either may be reported (R145, R150). -/
def busAllows : BusOwner → EventClass → Bool
  | .owned, .startSent => false
  | .free, .repStartSent => false
  | _, _ => true

/-- The event classes a well-behaved port may deliver in a state (R145). -/
def portAllows (s : State) (c : EventClass) : Bool := phaseAllows (phase s) c && busAllows s.port.bus c

/-- The step from `s` to `t` is one a well-behaved port can take part in: an event it delivers is allowed. -/
def WellBehavedStep (c : Byte → EventClass) (s t : State) : Prop :=
  s.ctrl.iflag = false → t.ctrl.iflag = true → portAllows s (c t.status) = true

/-- The descriptor does not spell a READ of length 0 (R189). -/
def notZeroRead (p : Params) (d : Nat) : Bool :=
  match decodeCommand p d with
  | .ok (.read _ _ len) => len != 0
  | _ => true

/-- The host never issues a READ of length 0 (R189, R198). -/
def NoZeroRead (s : State) : Prop :=
  (∀ d, s.presented = some d → notZeroRead s.params d = true) ∧
    ∀ d, HostAction.command d ∈ s.hostScript → notZeroRead s.params d = true

/-- What holds of a transaction in flight on a well-behaved port: a pending event fits the phase, the phase is one of
the four in-flight ones, reading means the write phase is over and a byte is still to come, and the ACK or NACK the next
byte was armed with is the lookahead decision (R57, R119, R125). -/
structure OnTrack (c : Byte → EventClass) (s : State) : Prop where
  /-- The pending event is one the phase allows. -/
  pendingFits : s.ctrl.ie = true → s.ctrl.iflag = true → phaseAllows (phase s) (c s.status) = true
  /-- In flight, the phase is neither idle nor the error hold. -/
  inFlightPhase : s.ctrl.ie = true → phase s ≠ .idle ∧ phase s ≠ .errorHold
  /-- With the direction bit set, nothing is left to send and something to receive. -/
  reading : s.ctrl.ie = true → s.ta.getLsbD 0 = true → s.wcnt = 0 ∧ s.rcnt ≠ 0
  /-- The address byte on the wire has the direction of `ta`. -/
  addressDirection : ∀ r, s.ctrl.ie = true → phase s = .addrSent r → s.ta.getLsbD 0 = r
  /-- Bytes are sent with the direction bit clear. -/
  transmitting : s.ctrl.ie = true → phase s = .transmit → s.ta.getLsbD 0 = false
  /-- Bytes are received with the direction bit set, and ACK is armed exactly while more than one is outstanding. -/
  receiving : ∀ a, s.ctrl.ie = true → phase s = .receive a →
    s.ta.getLsbD 0 = true ∧ (a = true ↔ 1 < s.rcnt)

/-! ### Runs with a scripted port -/

/-- `n` events, each delivered by the port and then serviced by the sequencer. -/
def serviceTurns : Nat → List Agent
  | 0 => []
  | n + 1 => .port :: .sequencer :: serviceTurns n

/-- `k` steps under the classifier `c`, stopping at the first fault or refusal. -/
def runWith (c : Byte → EventClass) : Nat → State → Result
  | 0, s => .next s
  | k + 1, s =>
    match stepWith c s with
    | .next t => runWith c k t
    | .fault f => .fault f
    | .refused r => .refused r

/-- The `n` bytes of buffer memory from an address on, in index order (R51). -/
def bufferBytes (s : State) (base : Nat) (n : Nat) : List Byte :=
  (List.range n).map (fun k => memRead s (base + k))

/-- What no rule of the block reads (R25, R34, R37, R38), blanked out: the error signature, the clock registers, the
port trace, the fault set, and the port-private state but for `rearmed`. -/
def blind (s : State) : State :=
  { s with
    errsig := 0
    clkdiv := 0
    clkpre := 0
    trace := []
    faults := []
    port := { s.port with ackLatch := false, bus := .free, stopPending := false, holding := false } }

/-- An answer seen with those parts blanked out. -/
def blindResult : Result → Result
  | .next t => .next (blind t)
  | .fault f => .fault f
  | .refused r => .refused r

end Sys2Proof.Safety
end

