-- ==== Sys2Proof/WellFormed.lean ====
section
/-!
DEFINITION. When an instruction is one the encoding can spell (spec/30_encoding.md): a command's operands fit their
fields (R71), an event's operand is a status byte of that event's class (R73, R74, R80).
-/

namespace Sys2Proof

/-- The five codes of class `OTHER` that have a row of their own (R80). -/
def namedOtherCodes : List Byte := [0x20#8, 0x30#8, 0x48#8, 0x00#8, 0xF8#8]

/-- A number fits a field of `w` bits. -/
def fits (w v : Nat) : Bool := decide (v < 2 ^ w)

/-- Well-formedness under the widths `p` and the classifier `c`. -/
def WellFormedWith (p : Params) (c : Byte → EventClass) : Instr → Bool
  | .init div pre => fits p.divW div && fits p.preW pre
  | .write _ buf len => fits p.addrW buf && fits p.cntW len
  | .read _ buf len => fits p.addrW buf && fits p.cntW len
  | .writeRead _ buf wlen rlen => fits p.addrW buf && fits p.cntW wlen && fits p.cntW rlen
  | .isBusy | .getStatus => true
  | .reservedOp6 rest => fits (p.descriptorBits - 3) rest
  | .reservedOp7 rest => fits (p.descriptorBits - 3) rest
  | .startSent s => c s == .startSent
  | .repStartSent s => c s == .repStartSent
  | .slawAck s => c s == .slawAck
  | .txdataAck s => c s == .txdataAck
  | .arbLost s => c s == .arbLost
  | .slarAck s => c s == .slarAck
  | .rxdataAck s => c s == .rxdataAck
  | .rxdataNack s => c s == .rxdataNack
  | .otherSlawNack s => c s == .other && statusCode s == 0x20#8
  | .otherTxdataNack s => c s == .other && statusCode s == 0x30#8
  | .otherSlarNack s => c s == .other && statusCode s == 0x48#8
  | .otherBusError s => c s == .other && statusCode s == 0x00#8
  | .otherNoState s => c s == .other && statusCode s == 0xF8#8
  | .other s => c s == .other && !namedOtherCodes.contains (statusCode s)
  | .cwArm | .cwStart | .cwNext | .cwNextAck | .cwStop | .cwHold => true

/-- Well-formedness under the default widths and the default `Classify` table. -/
def WellFormed (i : Instr) : Bool := WellFormedWith Params.default classify i

end Sys2Proof
end

