-- ==== Sys2Proof/Certificates/Slice0/Obligations.lean ====
section
/-!
DEFINITION. The statements for the provers. Each docstring names the rules of spec/ it rests on; expected states are
written out field by field from the spec's pseudocode (a byte of memory is named by `memRead` and `memPut`, an address
byte by `addrByte`, a fault recorded by `recordFault`). Where a statement leaves the port-private state to some `p`,
the spec fixes only what it says of `p`.
-/

open Sys2Proof Sys2Proof.Machine Sys2Proof.Safety

/-! ### Encoding -/

/-- R71, R73, R75, for every width (log entry 16) and every classifier: decoding the word of a well-formed instruction
gives the instruction back. CW_HOLD is the exception: R75 says its word is CW_ARM's, and that the word then reads as
CW_ARM is the model's tie-break (log entry 13), since the block decodes no control word (R80). -/
def Obligations.DecodeOfEncode : Prop :=
  (∀ (p : Params) (c : Byte → EventClass) (i : Instr), WellFormedWith p c i = true → i ≠ .cwHold →
    decodeWith p c (encode p i) = .ok i) ∧
  ∀ (p : Params) (c : Byte → EventClass), decodeWith p c (encode p .cwHold) = .ok .cwArm

/-- R71, R73, R77, for every width (log entry 16) and every classifier: what the decoder reads is well-formed and
spelled by exactly the word read. -/
def Obligations.EncodeOfDecode : Prop :=
  ∀ (p : Params) (c : Byte → EventClass) (e : Encoded) (i : Instr), decodeWith p c e = .ok i →
    WellFormedWith p c i = true ∧ encode p i = e

/-- R93 to R95 examples, R74, R75: words written out in the spec, at the default widths, decode to the instructions they
stand for, and the control words have the bytes of the table. -/
def Obligations.WordsOfTheSpecDecode : Prop :=
  decodeCommand Params.default 0x010000035001 = .ok (.write 0x50#7 0x0100 3) ∧
  decodeCommand Params.default 0x020000025002 = .ok (.read 0x50#7 0x0200 2) ∧
  decodeCommand Params.default 0x030002016803 = .ok (.writeRead 0x68#7 0x0300 1 2) ∧
  decodeCommand Params.default 0x000000004800 = .ok (.init 0x48 0) ∧
  decodeCommand Params.default 0x000000000004 = .ok .isBusy ∧
  decodeCommand Params.default 0x000000000005 = .ok .getStatus ∧
  decodeEvent 0x08#8 = .startSent 0x08#8 ∧ decodeEvent 0x38#8 = .arbLost 0x38#8 ∧
  decodeEvent 0x58#8 = .rxdataNack 0x58#8 ∧ decodeEvent 0x20#8 = .otherSlawNack 0x20#8 ∧
  decodeEvent 0x60#8 = .other 0x60#8 ∧
  controlByte .arm = 0x04#8 ∧ controlByte .start = 0xA5#8 ∧ controlByte .next = 0x85#8 ∧
  controlByte .nextAck = 0xC5#8 ∧ controlByte .stop = 0x94#8 ∧ controlByte .hold = 0x04#8

/-- R71, R77 (a), at every width (the places of the fields are log entry 16's for other widths than the default): on the
host's turn a presented descriptor with a reserved `op` or a nonzero must-be-zero bit is refused as IllegalCommand, and
every other descriptor spells a command that is not a reserved one. -/
def Obligations.IllegalDescriptorsAreRefused : Prop :=
  ∀ (d : Nat) (s : State) (r : List Agent), s.presented = some d → s.schedule = .host :: r →
    d < 2 ^ max (16 + 2 * s.params.cntW + s.params.addrW) (8 + s.params.divW + s.params.preW) →
    let op := d % 8
    let illegal : Prop :=
      6 ≤ op ∨ d / 2 ^ 3 % 2 ^ 5 ≠ 0 ∨ (op = 0 ∧ d / 2 ^ (8 + s.params.divW + s.params.preW) ≠ 0) ∨
      ((op = 4 ∨ op = 5) ∧ d / 2 ^ 8 ≠ 0) ∨
      ((op = 1 ∨ op = 2 ∨ op = 3) ∧
        (d / 2 ^ 15 % 2 ≠ 0 ∨ d / 2 ^ (16 + 2 * s.params.cntW + s.params.addrW) ≠ 0)) ∨
      ((op = 1 ∨ op = 2) ∧ d / 2 ^ (16 + s.params.cntW) % 2 ^ s.params.cntW ≠ 0)
    (illegal → step s = .refused .illegalCommand) ∧
    (¬ illegal → ∃ i, decodeCommand s.params d = .ok i ∧ ∀ rest, i ≠ .reservedOp6 rest ∧ i ≠ .reservedOp7 rest)

/-- R75: all the rules need of a CtrlLayout is that its six fields are distinct bits; then packing a control word loses
nothing. That CTRL is one byte, so a position is below 8, is the model's choice (log entry 18). -/
def Obligations.ControlLayoutLosesNothing : Prop :=
  ∀ (l : CtrlLayout) (w : ControlWord), layoutDistinct l = true → unpackControl l (packControl l w) = w

/-- R72: the address byte is the address shifted left by one with the direction in bit 0, and nothing is shifted out. -/
def Obligations.AddressByteIsShiftedAddress : Prop :=
  ∀ (addr7 : BitVec 7) (dir : BitVec 1), (addrByte addr7 dir).toNat = 2 * addr7.toNat + dir.toNat

/-! ### Reset -/

/-- R180: after a hardware reset, whatever the widths, CTRL is all zero, the block is idle, the port has no step and the
trace is empty. -/
def Obligations.ResetLeavesPortDisabled : Prop :=
  ∀ p : Params,
    (State.resetWith p).ctrl =
      { en := false, ie := false, sta := false, sto := false, ea := false, iflag := false } ∧
    busy (State.resetWith p) = false ∧ portEnabled (State.resetWith p) = false ∧ (State.resetWith p).trace = []

/-! ### Host commands -/

/-- R91: INIT on an idle block zeroes the cursors, stores the clock operands and writes CW_ARM, leaving `ta`, `outcome`,
`errsig`, `iflag`, buffer memory and everything else of the block; that it leaves DATA and the borrow is the model's
reading (log entries 9 and 10). While a transaction is in flight it records InitWhileBusy and changes nothing of the
block (R11; that the command is then over is log entry 12). -/
def Obligations.InitArmsTheIdleBlock : Prop :=
  ∀ (div pre : Nat) (s : State),
    (s.ctrl.ie = false →
      ∃ p : PortPrivate, p.rearmed = false ∧ p.ackLatch = false ∧ exec (.init div pre) s = .next
        { s with
          wptr := 0, wcnt := 0, rptr := 0, rcnt := 0, clkdiv := div, clkpre := pre
          ctrl := { en := true, ie := false, sta := false, sto := false, ea := false, iflag := s.ctrl.iflag }
          port := p
          trace := s.trace ++ [.ctl .arm]
          presented := none, response := none }) ∧
    (s.ctrl.ie = true → exec (.init div pre) s = .next
      { s with presented := none, response := none, faults := recordFault .initWhileBusy s.faults })

/-- R90, R92, R93: WRITE on an idle armed block installs the write cursor, zeroes the read cursor, clears the
direction bit, sets Busy, writes CW_START and lends the region in place of what was lent before (R55, log entry 10);
busy it is held unchanged; before INIT it records NotInitialized, whatever the region (log entry 14); a region over
the top records BufferWrap; neither fault changes anything of the block (R11, log entry 12). -/
def Obligations.WriteStartsTransaction : Prop :=
  ∀ (addr7 : BitVec 7) (buf : Nat) (len : Nat) (s : State),
    (s.ctrl.ie = false → s.ctrl.en = true → buf + len ≤ 2 ^ s.params.addrW →
      ∃ p : PortPrivate, p.rearmed = true ∧ p.ackLatch = false ∧ exec (.write addr7 buf len) s = .next
        { s with
          ta := addrByte addr7 0#1, wptr := buf, wcnt := len, rptr := 0, rcnt := 0, outcome := .busy
          ctrl := { en := true, ie := true, sta := true, sto := false, ea := false, iflag := false }
          port := p
          borrow := some { wbase := buf, wlen := len, rbase := 0, rlen := 0 }
          trace := s.trace ++ [.ctl .start]
          presented := none, response := none }) ∧
    (s.ctrl.ie = true → exec (.write addr7 buf len) s = .next s) ∧
    (s.ctrl.ie = false → s.ctrl.en = false → exec (.write addr7 buf len) s = .next
        { s with presented := none, response := none, faults := recordFault .notInitialized s.faults }) ∧
    (s.ctrl.ie = false → s.ctrl.en = true → 2 ^ s.params.addrW < buf + len →
      exec (.write addr7 buf len) s = .next
        { s with presented := none, response := none, faults := recordFault .bufferWrap s.faults })

/-- R90, R92, R94: READ on an idle armed block installs the read cursor, zeroes the write cursor, sets the direction
bit, sets Busy, writes CW_START and lends the region in place of what was lent before (R55, log entry 10); held,
NotInitialized whatever the region (log entry 14) and BufferWrap as for WRITE. -/
def Obligations.ReadStartsTransaction : Prop :=
  ∀ (addr7 : BitVec 7) (buf : Nat) (len : Nat) (s : State),
    (s.ctrl.ie = false → s.ctrl.en = true → buf + len ≤ 2 ^ s.params.addrW →
      ∃ p : PortPrivate, p.rearmed = true ∧ p.ackLatch = false ∧ exec (.read addr7 buf len) s = .next
        { s with
          ta := addrByte addr7 1#1, wptr := 0, wcnt := 0, rptr := buf, rcnt := len, outcome := .busy
          ctrl := { en := true, ie := true, sta := true, sto := false, ea := false, iflag := false }
          port := p
          borrow := some { wbase := 0, wlen := 0, rbase := buf, rlen := len }
          trace := s.trace ++ [.ctl .start]
          presented := none, response := none }) ∧
    (s.ctrl.ie = true → exec (.read addr7 buf len) s = .next s) ∧
    (s.ctrl.ie = false → s.ctrl.en = false → exec (.read addr7 buf len) s = .next
        { s with presented := none, response := none, faults := recordFault .notInitialized s.faults }) ∧
    (s.ctrl.ie = false → s.ctrl.en = true → 2 ^ s.params.addrW < buf + len →
      exec (.read addr7 buf len) s = .next
        { s with presented := none, response := none, faults := recordFault .bufferWrap s.faults })

/-- R90, R92, R95: WRITEREAD on an idle armed block installs both cursors on the one buffer in the one acceptance,
with the direction bit clear, and lends both regions in place of what was lent before (R55, log entry 10); held,
NotInitialized whatever the regions (log entry 14) and BufferWrap (either region) as for WRITE. -/
def Obligations.WriteReadStartsTransaction : Prop :=
  ∀ (addr7 : BitVec 7) (buf : Nat) (wlen rlen : Nat) (s : State),
    (s.ctrl.ie = false → s.ctrl.en = true → buf + wlen ≤ 2 ^ s.params.addrW →
      buf + rlen ≤ 2 ^ s.params.addrW →
      ∃ p : PortPrivate, p.rearmed = true ∧ p.ackLatch = false ∧ exec (.writeRead addr7 buf wlen rlen) s = .next
        { s with
          ta := addrByte addr7 0#1, wptr := buf, wcnt := wlen, rptr := buf, rcnt := rlen, outcome := .busy
          ctrl := { en := true, ie := true, sta := true, sto := false, ea := false, iflag := false }
          port := p
          borrow := some { wbase := buf, wlen := wlen, rbase := buf, rlen := rlen }
          trace := s.trace ++ [.ctl .start]
          presented := none, response := none }) ∧
    (s.ctrl.ie = true → exec (.writeRead addr7 buf wlen rlen) s = .next s) ∧
    (s.ctrl.ie = false → s.ctrl.en = false → exec (.writeRead addr7 buf wlen rlen) s = .next
        { s with presented := none, response := none, faults := recordFault .notInitialized s.faults }) ∧
    (s.ctrl.ie = false → s.ctrl.en = true →
      2 ^ s.params.addrW < buf + wlen ∨ 2 ^ s.params.addrW < buf + rlen →
      exec (.writeRead addr7 buf wlen rlen) s = .next
        { s with presented := none, response := none, faults := recordFault .bufferWrap s.faults })

/-- R96: ISBUSY is never held, returns the live CTRL.ie and changes nothing of the block; the host's seeing idle ends
the borrow (R55, log entry 10). -/
def Obligations.IsBusyReturnsInterruptEnable : Prop :=
  ∀ s : State,
    (s.ctrl.ie = true → exec .isBusy s = .next { s with presented := none, response := some 1#1 }) ∧
    (s.ctrl.ie = false → exec .isBusy s = .next { s with presented := none, response := some 0#1, borrow := none })

/-- R97: GETSTATUS is never held, returns 0 for Success, 1 for Error and a free bit while Busy, and changes nothing of
the block. The free bit is unconstrained; the counter it is drawn with is the model's own (log entry 2). -/
def Obligations.GetStatusMapsOutcome : Prop :=
  ∀ s : State,
    (s.outcome = .success → exec .getStatus s = .next { s with presented := none, response := some 0#1 }) ∧
    (s.outcome = .error → exec .getStatus s = .next { s with presented := none, response := some 1#1 }) ∧
    (s.outcome = .busy → ∃ b : BitVec 1,
      exec .getStatus s = .next { s with presented := none, response := some b, draws := s.draws + 1 })

/-- R77 (a): the two reserved `op` values are refused as IllegalCommand, whatever the other bits. -/
def Obligations.ReservedOpsAreRefused : Prop :=
  ∀ (rest : Nat) (s : State),
    exec (.reservedOp6 rest) s = .refused .illegalCommand ∧ exec (.reservedOp7 rest) s = .refused .illegalCommand

/-! ### Port events, with the interrupt line high -/

/-- R113, R114: START_SENT and REP_START_SENT alike load DATA with the address byte and write CW_NEXT; nothing else
changes. -/
def Obligations.StartEventsSendAddress : Prop :=
  ∀ (b : Byte) (s : State), s.ctrl.iflag = true → s.ctrl.ie = true →
    ∃ p : PortPrivate, p.rearmed = true ∧ p.ackLatch = false ∧
    let t : State :=
      { s with
        data := s.ta
        ctrl := { en := true, ie := true, sta := false, sto := false, ea := false, iflag := false }
        port := p
        trace := s.trace ++ [.dat s.ta, .ctl .next] }
    exec (.startSent b) s = .next t ∧ exec (.repStartSent b) s = .next t

/-- R115, R116, R117: SLAW_ACK and TXDATA_ACK alike. With a byte still to send they load it through the write cursor,
advance the cursor and write CW_NEXT; else with a byte to receive they invert the direction bit and write CW_START; else
they end the transaction with Success and CW_STOP. -/
def Obligations.TransmitEventsAdvance : Prop :=
  ∀ (b : Byte) (s : State), s.ctrl.iflag = true → s.ctrl.ie = true →
    (s.wcnt ≠ 0 →
      ∃ p : PortPrivate, p.rearmed = true ∧ p.ackLatch = false ∧
        let t : State :=
          { s with
            data := memRead s s.wptr
            wptr := (s.wptr + 1) % 2 ^ s.params.addrW, wcnt := s.wcnt - 1
            ctrl := { en := true, ie := true, sta := false, sto := false, ea := false, iflag := false }
            port := p
            trace := s.trace ++ [.dat (memRead s s.wptr), .ctl .next] }
        exec (.slawAck b) s = .next t ∧ exec (.txdataAck b) s = .next t) ∧
    (s.wcnt = 0 → s.rcnt ≠ 0 →
      ∃ p : PortPrivate, p.rearmed = true ∧ p.ackLatch = false ∧
        let t : State :=
          { s with
            ta := s.ta ^^^ 0x01#8
            ctrl := { en := true, ie := true, sta := true, sto := false, ea := false, iflag := false }
            port := p
            trace := s.trace ++ [.ctl .start] }
        exec (.slawAck b) s = .next t ∧ exec (.txdataAck b) s = .next t) ∧
    (s.wcnt = 0 → s.rcnt = 0 →
      ∃ p : PortPrivate, p.rearmed = true ∧ p.ackLatch = false ∧
        let t : State :=
          { s with
            outcome := .success
            ctrl := { en := true, ie := false, sta := false, sto := true, ea := false, iflag := false }
            port := p
            trace := s.trace ++ [.ctl .stop] }
        exec (.slawAck b) s = .next t ∧ exec (.txdataAck b) s = .next t)

/-- R118, R119: SLAR_ACK stores nothing and arms ACK for the next byte when more than one is outstanding, NACK
otherwise. -/
def Obligations.ReadAddressAckArmsFirstByte : Prop :=
  ∀ (b : Byte) (s : State), s.ctrl.iflag = true → s.ctrl.ie = true →
    ∃ p : PortPrivate, p.rearmed = true ∧ p.ackLatch = decide (1 < s.rcnt) ∧ exec (.slarAck b) s = .next
      { s with
        ctrl := { en := true, ie := true, sta := false, sto := false, ea := decide (1 < s.rcnt), iflag := false }
        port := p
        trace := s.trace ++ [.ctl (if 1 < s.rcnt then .nextAck else .next)] }

/-- R120, R122: RXDATA_ACK stores DATA through the read cursor, advances it, and arms ACK when more than one byte is
still outstanding after the decrement, NACK otherwise; with no room left it records CursorUnderflow and changes
nothing else (R11). -/
def Obligations.ReceiveAckStoresAndArmsNext : Prop :=
  ∀ (b : Byte) (s : State), s.ctrl.iflag = true → s.ctrl.ie = true →
    (s.rcnt ≠ 0 →
      ∃ p : PortPrivate, p.rearmed = true ∧ p.ackLatch = decide (2 < s.rcnt) ∧ exec (.rxdataAck b) s = .next
        { s with
          mem := memPut s.mem s.rptr s.data
          rptr := (s.rptr + 1) % 2 ^ s.params.addrW, rcnt := s.rcnt - 1
          ctrl := { en := true, ie := true, sta := false, sto := false, ea := decide (2 < s.rcnt), iflag := false }
          port := p
          trace := s.trace ++ [.ctl (if 2 < s.rcnt then .nextAck else .next)] }) ∧
    (s.rcnt = 0 → exec (.rxdataAck b) s = .next { s with faults := recordFault .cursorUnderflow s.faults })

/-- R121, R122: RXDATA_NACK stores DATA through the read cursor, advances it, and ends the transaction with Success and
CW_STOP whatever is still outstanding; with no room left it records CursorUnderflow and changes nothing else (R11). -/
def Obligations.ReceiveNackStoresAndFinishes : Prop :=
  ∀ (b : Byte) (s : State), s.ctrl.iflag = true → s.ctrl.ie = true →
    (s.rcnt ≠ 0 →
      ∃ p : PortPrivate, p.rearmed = true ∧ p.ackLatch = false ∧ exec (.rxdataNack b) s = .next
        { s with
          mem := memPut s.mem s.rptr s.data
          rptr := (s.rptr + 1) % 2 ^ s.params.addrW, rcnt := s.rcnt - 1
          outcome := .success
          ctrl := { en := true, ie := false, sta := false, sto := true, ea := false, iflag := false }
          port := p
          trace := s.trace ++ [.ctl .stop] }) ∧
    (s.rcnt = 0 → exec (.rxdataNack b) s = .next { s with faults := recordFault .cursorUnderflow s.faults })

/-- R123: ARB_LOST writes CW_START and changes nothing else: no cursor is rewound, no retry is counted. -/
def Obligations.ArbitrationLossReissuesStart : Prop :=
  ∀ (b : Byte) (s : State), s.ctrl.iflag = true → s.ctrl.ie = true →
    ∃ p : PortPrivate, p.rearmed = true ∧ p.ackLatch = false ∧ exec (.arbLost b) s = .next
      { s with
        ctrl := { en := true, ie := true, sta := true, sto := false, ea := false, iflag := false }
        port := p
        trace := s.trace ++ [.ctl .start] }

/-- R124: every row of class OTHER captures the whole status byte, sets Error and writes CW_HOLD, leaving `iflag`, the
cursors and `ta`. -/
def Obligations.OtherEventsEndWithError : Prop :=
  ∀ (b : Byte) (s : State), s.ctrl.iflag = true → s.ctrl.ie = true →
    ∃ p : PortPrivate, p.rearmed = false ∧ p.ackLatch = false ∧
    let t : State :=
      { s with
        errsig := b, outcome := .error
        ctrl := { en := true, ie := false, sta := false, sto := false, ea := false, iflag := true }
        port := p
        trace := s.trace ++ [.ctl .hold] }
    exec (.otherSlawNack b) s = .next t ∧ exec (.otherTxdataNack b) s = .next t ∧
    exec (.otherSlarNack b) s = .next t ∧ exec (.otherBusError b) s = .next t ∧
    exec (.otherNoState b) s = .next t ∧ exec (.other b) s = .next t

/-- R110, R151: with the interrupt line low (CTRL.iflag = 0 or CTRL.ie = 0) no event is serviced: nothing changes. -/
def Obligations.EventsNeedTheInterruptLine : Prop :=
  ∀ (i : Instr) (s : State), i.format = .evt → s.ctrl.iflag = false ∨ s.ctrl.ie = false → exec i s = .next s

/-- R111: dispatch is on the class alone: two status bytes of one class other than OTHER have the same effect in every
state, and two of class OTHER differ at most in the error signature. -/
def Obligations.DispatchIsOnTheClassAlone : Prop :=
  ∀ (c : Byte → EventClass) (b b' : Byte) (s : State), c b = c b' →
    (c b ≠ .other → exec (decodeEventWith c b) s = exec (decodeEventWith c b') s) ∧
    (c b = .other → ∀ t, exec (decodeEventWith c b) s = .next t →
      ∃ e, exec (decodeEventWith c b') s = .next { t with errsig := e })

/-! ### Control words -/

/-- R75, R141: each control word writes its five fields to CTRL in one write, clears `iflag` exactly if `rearm = 1`,
latches `ea` and `rearm` in the port and appends itself to the trace; nothing else of the block changes. The other
port-private bits are the model's reading of R145, R148 and R149 (log entry 6). -/
def Obligations.ControlWordsWriteCtrl : Prop :=
  ∀ s : State,
    exec .cwArm s = .next
      { s with
        ctrl := { en := true, ie := false, sta := false, sto := false, ea := false, iflag := s.ctrl.iflag }
        port := { s.port with rearmed := false, ackLatch := false }
        trace := s.trace ++ [.ctl .arm] } ∧
    exec .cwStart s = .next
      { s with
        ctrl := { en := true, ie := true, sta := true, sto := false, ea := false, iflag := false }
        port := { s.port with rearmed := true, ackLatch := false, holding := false }
        trace := s.trace ++ [.ctl .start] } ∧
    exec .cwNext s = .next
      { s with
        ctrl := { en := true, ie := true, sta := false, sto := false, ea := false, iflag := false }
        port := { s.port with rearmed := true, ackLatch := false, holding := false }
        trace := s.trace ++ [.ctl .next] } ∧
    exec .cwNextAck s = .next
      { s with
        ctrl := { en := true, ie := true, sta := false, sto := false, ea := true, iflag := false }
        port := { s.port with rearmed := true, ackLatch := true, holding := false }
        trace := s.trace ++ [.ctl .nextAck] } ∧
    exec .cwStop s = .next
      { s with
        ctrl := { en := true, ie := false, sta := false, sto := true, ea := false, iflag := false }
        port := { rearmed := true, ackLatch := false, bus := .free, stopPending := true, holding := false }
        trace := s.trace ++ [.ctl .stop] } ∧
    exec .cwHold s = .next
      { s with
        ctrl := { en := true, ie := false, sta := false, sto := false, ea := false, iflag := s.ctrl.iflag }
        port := { rearmed := false, ackLatch := false, bus := .unknown, stopPending := s.port.stopPending,
                  holding := true }
        trace := s.trace ++ [.ctl .hold] }

/-- R112, R133: a serviced event, but for a byte received with no room left (R122), performs exactly one control write,
as its last act, after at most one DataWrite: the next state is what a control-word instruction makes of a state that
still has the old CTRL. -/
def Obligations.OneControlWordEndsEveryEventStep : Prop :=
  ∀ (i : Instr) (s t : State), i.format = .evt → s.ctrl.iflag = true → s.ctrl.ie = true →
    (isReceiveEvent i = true → s.rcnt ≠ 0) → exec i s = .next t →
    ∃ (k : Instr) (u : State), k.format = .ctl ∧ exec k u = .next t ∧ u.ctrl = s.ctrl ∧ u.port = s.port ∧
      t.outcome = u.outcome ∧ (u.trace = s.trace ∨ ∃ b, u.trace = s.trace ++ [.dat b] ∧ t.data = b) ∧
      ∃ w, t.trace = u.trace ++ [.ctl w]

/-! ### Frames -/

/-- R50, R53: no instruction but the two receive events changes a byte of buffer memory. -/
def Obligations.OnlyReceiveEventsWriteMemory : Prop :=
  ∀ (i : Instr) (s t : State), isReceiveEvent i = false → exec i s = .next t → ∀ a, memRead t a = memRead s a

/-- R122: a receive event with the interrupt line high and a byte still expected stores DATA at the address in the read
pointer and changes no other byte of buffer memory; with none expected it changes no byte. -/
def Obligations.ReceiveEventsWriteOneByte : Prop :=
  ∀ (i : Instr) (s t : State), isReceiveEvent i = true → s.ctrl.iflag = true → s.ctrl.ie = true →
    exec i s = .next t →
    (s.rcnt ≠ 0 → memRead t s.rptr = s.data ∧ ∀ a, a ≠ s.rptr → memRead t a = memRead s a) ∧
    (s.rcnt = 0 → ∀ a, memRead t a = memRead s a)

/-- R27, R32, R34: who writes what. Whatever an instruction does, the registers it is not listed for in the access
summary keep their values. That INIT leaves DATA is the model's reading (log entry 9), and so is who changes what is
lent: the transaction commands and ISBUSY, not INIT or GETSTATUS (R55, log entry 10). The fault set changes only where
R163 names a fault, and the widths never (R8). -/
def Obligations.RegistersHaveOnlyTheirWriters : Prop :=
  ∀ (i : Instr) (s t : State), exec i s = .next t →
    (isTransaction i = false → isTransmitEvent i = false → t.ta = s.ta) ∧
    (isTransaction i = false → isTransmitEvent i = false → (∀ d p, i ≠ .init d p) →
      t.wptr = s.wptr ∧ t.wcnt = s.wcnt) ∧
    (isTransaction i = false → isReceiveEvent i = false → (∀ d p, i ≠ .init d p) →
      t.rptr = s.rptr ∧ t.rcnt = s.rcnt) ∧
    (isTransaction i = false → isTransmitEvent i = false → (∀ b, i ≠ .rxdataNack b) → isOtherEvent i = false →
      t.outcome = s.outcome) ∧
    (isOtherEvent i = false → t.errsig = s.errsig) ∧
    ((∀ d p, i ≠ .init d p) → t.clkdiv = s.clkdiv ∧ t.clkpre = s.clkpre) ∧
    (isStartEvent i = false → isTransmitEvent i = false → t.data = s.data) ∧
    (isTransaction i = false → i ≠ .isBusy → t.borrow = s.borrow) ∧
    (isTransaction i = false → isReceiveEvent i = false → (∀ d p, i ≠ .init d p) → t.faults = s.faults) ∧
    t.params = s.params

/-- R31, R33, R143: no instruction writes STATUS or sets `iflag`: only the port raises an event. -/
def Obligations.BlockNeverRaisesAnEvent : Prop :=
  ∀ (i : Instr) (s t : State), exec i s = .next t →
    t.status = s.status ∧ (t.ctrl.iflag = true → s.ctrl.iflag = true)

/-- R35 (a), R168: while a transaction is in flight no host command changes TransactionState, a port register, the
port, buffer memory, what is lent, or the port trace; an INIT then records its fault (R91). -/
def Obligations.CommandsLeaveTransactionInFlight : Prop :=
  ∀ (i : Instr) (s t : State), i.format = .cmd → s.ctrl.ie = true → exec i s = .next t →
    t = { s with presented := t.presented, response := t.response, draws := t.draws, faults := t.faults } ∧
      (t.faults = s.faults ∨ t.faults = recordFault .initWhileBusy s.faults)

/-! ### The step -/

/-- R56, R90: on the host's turn a presented descriptor that decodes is run, and with none presented the script's next
command is presented and run in the same step. The script is the model's own (log entry 7). -/
def Obligations.StepRunsThePresentedCommand : Prop :=
  ∀ (s : State) (r : List Agent) (d : Nat) (i : Instr), s.schedule = .host :: r →
    decodeCommand s.params d = .ok i →
    (s.presented = some d → step s = exec i { s with schedule := r }) ∧
    (∀ hs, s.presented = none → s.hostScript = .command d :: hs →
      step s = exec i { s with schedule := r, presented := some d, hostScript := hs })

/-- R110, R166: on the sequencer's turn the byte in STATUS is decoded and run. The schedule is the model's own (log
entry 7). -/
def Obligations.StepRunsTheStatusByte : Prop :=
  ∀ (s : State) (r : List Agent), s.schedule = .sequencer :: r →
    step s = exec (decodeEvent s.status) { s with schedule := r }

/-- R143, R144: on the port's turn, armed and with no event pending, the port delivers one event: STATUS, DATA and
`iflag` in one action, from the script or, that being empty, of any status and data; nothing else of the block changes.
Otherwise the port does nothing. -/
def Obligations.PortDeliversOneEvent : Prop :=
  ∀ (s : State) (r : List Agent), s.schedule = .port :: r →
    (s.ctrl.en = true → s.ctrl.iflag = false → s.port.rearmed = true →
      ∃ (e : PortEvent) (ps : List PortEvent) (p : PortPrivate) (n : Nat),
        step s = .next
          { s with
            schedule := r, portScript := ps, draws := n
            status := e.status, data := e.data
            ctrl := { s.ctrl with iflag := true }
            port := p } ∧
        p.rearmed = s.port.rearmed ∧ p.ackLatch = s.port.ackLatch ∧
        (s.portScript ≠ [] → s.portScript = e :: ps ∧ n = s.draws)) ∧
    (s.ctrl.en = false ∨ s.ctrl.iflag = true ∨ s.port.rearmed = false → step s = .next { s with schedule := r })

/-- R55, R183, R198: while the borrow lasts, a host load of the lent read region or a host store to a lent region records
BorrowViolation and does nothing else (R11); any other load or store moves exactly that byte. That CTRL.ie = 0 alone does
not end the borrow is the model's reading beside R168 (log entry 10). An address of more than ADDR_W bits is none of
buffer memory's (R50, log entry 15). Schedule and host script are the model's own (log entry 7). -/
def Obligations.HostAccessRespectsTheBorrow : Prop :=
  ∀ (s : State) (r : List Agent) (hs : List HostAction) (a : Nat) (v : Byte),
    s.schedule = .host :: r → s.presented = none →
    let lentToRead : Prop := ∃ b, s.borrow = some b ∧ b.rbase ≤ a ∧ a < b.rbase + b.rlen
    let lentToWrite : Prop := ∃ b, s.borrow = some b ∧ b.wbase ≤ a ∧ a < b.wbase + b.wlen
    let violation : State :=
      { s with schedule := r, hostScript := hs, faults := recordFault .borrowViolation s.faults }
    (s.hostScript = .load a :: hs →
      (2 ^ s.params.addrW ≤ a → step s = .fault .noSuchAddress) ∧
      (a < 2 ^ s.params.addrW → lentToRead → step s = .next violation) ∧
      (a < 2 ^ s.params.addrW → ¬ lentToRead →
        step s = .next { s with schedule := r, hostScript := hs, hostByte := some (memRead s a) })) ∧
    (s.hostScript = .store a v :: hs →
      (2 ^ s.params.addrW ≤ a → step s = .fault .noSuchAddress) ∧
      (a < 2 ^ s.params.addrW → lentToRead ∨ lentToWrite → step s = .next violation) ∧
      (a < 2 ^ s.params.addrW → ¬ lentToRead → ¬ lentToWrite →
        ∃ t, step s = .next t ∧ memRead t a = v ∧ (∀ x, x ≠ a → memRead t x = memRead s x) ∧
          t = { s with schedule := r, hostScript := hs, mem := t.mem }))

/-- R90, R186: while a transaction is in flight, a presented transaction command stays presented through every step,
whoever moves, and the host issues nothing else. -/
def Obligations.HeldCommandStaysPresented : Prop :=
  ∀ (c : Byte → EventClass) (s t : State) (d : Nat) (i : Instr), s.presented = some d →
    decodeCommand s.params d = .ok i → isTransaction i = true → s.ctrl.ie = true → stepWith c s = .next t →
    t.presented = some d ∧ t.hostScript = s.hostScript

/-! ### Rules of the whole machine -/

/-- R133: a step that ends a transaction is the sequencer's, on one of exactly three occasions, each of which gives
`outcome` its final value. -/
def Obligations.TransactionsEndInThreeWays : Prop :=
  ∀ (c : Byte → EventClass) (s t : State), s.ctrl.ie = true → stepWith c s = .next t → t.ctrl.ie = false →
    s.ctrl.iflag = true ∧
    (((c s.status = .slawAck ∨ c s.status = .txdataAck) ∧ s.wcnt = 0 ∧ s.rcnt = 0 ∧
        t.outcome = .success ∧ t.trace = s.trace ++ [.ctl .stop]) ∨
     (c s.status = .rxdataNack ∧ s.rcnt ≠ 0 ∧ t.outcome = .success ∧ t.trace = s.trace ++ [.ctl .stop]) ∨
     (c s.status = .other ∧ t.outcome = .error ∧ t.errsig = s.status ∧ t.trace = s.trace ++ [.ctl .hold]))

/-- R36 (I5): within one transaction neither count increases. -/
def Obligations.CountsNeverIncreaseInFlight : Prop :=
  ∀ (c : Byte → EventClass) (s t : State), s.ctrl.ie = true → stepWith c s = .next t →
    t.wcnt ≤ s.wcnt ∧ t.rcnt ≤ s.rcnt

/-- R127: a step inside a transaction (in flight before and after) requests no STOP: it appends no control word with
`sto = 1`, so between acceptance and the terminal step there is none. -/
def Obligations.NoStopInsideATransaction : Prop :=
  ∀ (c : Byte → EventClass) (s t : State), s.ctrl.ie = true → stepWith c s = .next t → t.ctrl.ie = true →
    ∃ l, t.trace = s.trace ++ l ∧ BusItem.stop ∉ projectTrace l

/-- R58, R151, R197: once a run is over (nothing presented or left to issue, idle, no fault recorded) it stays
over: whoever moves, the step
answers a next state, and no field of TransactionState, no byte of memory and no item of the trace changes any more. -/
def Obligations.FinishedRunStaysFinished : Prop :=
  ∀ (c : Byte → EventClass) (s : State), runOver s = true →
    ∃ t, stepWith c s = .next t ∧ runOver t = true ∧
      t.ta = s.ta ∧ t.wptr = s.wptr ∧ t.wcnt = s.wcnt ∧ t.rptr = s.rptr ∧ t.rcnt = s.rcnt ∧
      t.outcome = s.outcome ∧ t.errsig = s.errsig ∧ t.mem = s.mem ∧ t.trace = s.trace

/-- R36, R180: after reset, whatever the widths, every state invariant of this file's step statements holds: I1, I2, I3
and I7, CTRL as the last control word left it, memory canonical, nothing in flight outside a lent region, every register
inside its width, on track, no READ of length 0 issued. Beside the spec's CTRL and trace this rests on reset values that
are the model's: nothing listed in memory (log entry 3), the cursors (4), the clock registers (5), `rearmed` and the ACK
latch (6), nothing presented and no script (7). -/
def Obligations.ResetMeetsInvariants : Prop :=
  ∀ (p : Params) (c : Byte → EventClass), Inv (State.resetWith p) ∧ CtrlIsLastWord (State.resetWith p) ∧
    Memory.wf (State.resetWith p).mem = true ∧ CursorsInBorrow (State.resetWith p) ∧ FitsWidths (State.resetWith p) ∧
    OnTrack c (State.resetWith p) ∧ NoZeroRead (State.resetWith p)

/-- R36: every step of the machine keeps I1, I2, I3 and I7. -/
def Obligations.StepKeepsInvariants : Prop :=
  ∀ s t : State, Inv s → step s = .next t → Inv t

/-- R31, R37, R75, R141: for every classifier, every step keeps CTRL, the ACK latch and `rearmed` equal to the fields of
the last control word written. -/
def Obligations.CtrlStaysTheLastControlWord : Prop :=
  ∀ (c : Byte → EventClass) (s t : State), CtrlIsLastWord s → stepWith c s = .next t → CtrlIsLastWord t

/-- R50, R53: for every classifier, every step keeps buffer memory in its canonical form (log entry 3). -/
def Obligations.StepKeepsMemoryCanonical : Prop :=
  ∀ (c : Byte → EventClass) (s t : State), Memory.wf s.mem = true → stepWith c s = .next t → Memory.wf t.mem = true

/-- R36 (I6), R55, R62: for every classifier, every step keeps both cursors of a transaction in flight inside the
regions it was lent, pointer and count moving together. -/
def Obligations.CursorsStayInTheirRegions : Prop :=
  ∀ (c : Byte → EventClass) (s t : State), CursorsInBorrow s → stepWith c s = .next t → CursorsInBorrow t

/-- R62, R53: with the cursors inside their regions, the sequencer writes no byte outside the lent read region, and the
byte it loads is inside the lent write region (what CursorsInBorrow says of one step). -/
def Obligations.SequencerStaysInLentRegions : Prop :=
  ∀ (c : Byte → EventClass) (s t : State) (r : List Agent), CursorsInBorrow s → s.schedule = .sequencer :: r →
    stepWith c s = .next t →
    (∀ a, memRead t a ≠ memRead s a → ∃ b, s.borrow = some b ∧ inRegion b.rbase b.rlen a = true) ∧
    (t.wcnt ≠ s.wcnt →
      ∃ b, s.borrow = some b ∧ inRegion b.wbase b.wlen s.wptr = true ∧ t.data = memRead s s.wptr)

/-- R57, R119, R145, R189: on a well-behaved port (R145's table, log entry 17), with no READ of length 0, every step
keeps a transaction on track (the write phase over before the first byte is stored, ACK armed exactly while more than
one byte is outstanding), and no step records CursorUnderflow. -/
def Obligations.WellBehavedPortNeverUnderflows : Prop :=
  ∀ (c : Byte → EventClass) (s t : State), OnTrack c s → NoZeroRead s → stepWith c s = .next t →
    (Fault.cursorUnderflow ∈ t.faults → Fault.cursorUnderflow ∈ s.faults) ∧
    (WellBehavedStep c s t → OnTrack c t ∧ NoZeroRead t)

/-- R126, R128, R147: a WRITE of `len` bytes whose START, address and bytes are all acknowledged takes `len + 2` events,
ends with Success, and the observed sequence is START, the address byte, the buffer in order, STOP. Schedule and scripts
are the model's own (log entry 7). -/
def Obligations.WriteRunSendsTheBuffer : Prop :=
  ∀ (c : Byte → EventClass) (s : State) (d : Nat) (addr7 : BitVec 7) (buf len : Nat) (es ps : List PortEvent)
    (hs : List HostAction) (r : List Agent),
    s.ctrl.ie = false → s.ctrl.en = true → buf + len ≤ 2 ^ s.params.addrW → s.presented = none →
    s.hostScript = .command d :: hs → decodeCommand s.params d = .ok (.write addr7 buf len) →
    s.schedule = .host :: (serviceTurns (len + 2) ++ r) → s.portScript = es ++ ps →
    es.map (fun e => c e.status) = .startSent :: .slawAck :: List.replicate len .txdataAck →
    ∃ t, runWith c (2 * (len + 2) + 1) s = .next t ∧
      t.outcome = .success ∧ t.ctrl.ie = false ∧ t.wcnt = 0 ∧ (∀ a, memRead t a = memRead s a) ∧
      t.schedule = r ∧ t.portScript = ps ∧ t.faults = s.faults ∧
      projectTrace t.trace = projectTrace s.trace ++
        .start :: .byte (addrByte addr7 0#1) :: ((bufferBytes s buf len).map .byte ++ [.stop])

/-- R125, R128: a READ of `len >= 1` bytes on a port that acknowledges the address takes `len + 2` events, requests
ACK for all bytes but the last and NACK for the last, leaves exactly the received bytes in the buffer in order, and
ends with Success. A READ of length 0 records CursorUnderflow instead (R122, R189), which the receive statements say.
Schedule and scripts are the model's own (log entry 7). -/
def Obligations.ReadRunFillsTheBuffer : Prop :=
  ∀ (c : Byte → EventClass) (s : State) (d : Nat) (addr7 : BitVec 7) (buf len : Nat) (es ps : List PortEvent)
    (hs : List HostAction) (r : List Agent),
    s.ctrl.ie = false → s.ctrl.en = true → buf + len ≤ 2 ^ s.params.addrW → len ≠ 0 →
    s.presented = none → s.hostScript = .command d :: hs → decodeCommand s.params d = .ok (.read addr7 buf len) →
    s.schedule = .host :: (serviceTurns (len + 2) ++ r) → s.portScript = es ++ ps →
    es.map (fun e => c e.status) =
      .startSent :: .slarAck :: (List.replicate (len - 1) .rxdataAck ++ [.rxdataNack]) →
    ∃ t, runWith c (2 * (len + 2) + 1) s = .next t ∧
      t.outcome = .success ∧ t.ctrl.ie = false ∧ t.rcnt = 0 ∧ t.schedule = r ∧ t.portScript = ps ∧
      t.faults = s.faults ∧
      bufferBytes t buf len = (es.drop 2).map (fun e => e.data) ∧
      (∀ a, inRegion buf len a = false → memRead t a = memRead s a) ∧
      controlWords t.trace = controlWords s.trace ++
        .start :: .next :: (List.replicate (len - 1) .nextAck ++ [.next, .stop])

/-- R25, R34, R37, R38, R172: for every classifier, the error signature, the clock registers, the port trace, the
fault set and the port-private bits other than `rearmed` are read by no rule: blanked out before a step, they make no
difference to anything else after it. -/
def Obligations.DiagnosticsAreNeverRead : Prop :=
  ∀ (c : Byte → EventClass) (s : State), blindResult (stepWith c s) = blindResult (stepWith c (blind s))

/-- R8, R22, R23, R34, R50: for every classifier, every step keeps the widths of the build and every register and
address inside its width. -/
def Obligations.StepKeepsWidths : Prop :=
  ∀ (c : Byte → EventClass) (s t : State), FitsWidths s → stepWith c s = .next t →
    t.params = s.params ∧ FitsWidths t

/-- R11, R12, R163: for every classifier, a step takes no fault out of the fault set and records at most one; a step
that records one changes nothing of the block, its port or memory (what it may change is the command interface and the
model's own fields, log entry 12). -/
def Obligations.FaultsAreSticky : Prop :=
  ∀ (c : Byte → EventClass) (s t : State), stepWith c s = .next t →
    t.faults = s.faults ∨
    ∃ f, f ∉ s.faults ∧ t.faults = s.faults ++ [f] ∧
      t = { s with
            faults := t.faults, presented := t.presented, response := t.response
            hostScript := t.hostScript, schedule := t.schedule, draws := t.draws }
end

