-- ==== Sys2Proof/Laws/Arith.lean ====
section
/-!
SUPPORT. The block's arithmetic (spec/41_sequencer_events.md R131), for every width.
-/

namespace Sys2Proof.Machine

/-- A pointer increment stays inside the address space (R131). -/
theorem nextAddr_lt (w : Nat) (a : Nat) : nextAddr w a < 2 ^ w := Nat.mod_lt _ (Nat.two_pow_pos w)

/-- Below the top the increment is plain addition. -/
theorem nextAddr_eq {w : Nat} {a : Nat} (h : a + 1 < 2 ^ w) : nextAddr w a = a + 1 := Nat.mod_eq_of_lt h

/-- Increments modulo the width add up. -/
theorem nextAddr_mod (w n : Nat) : nextAddr w (n % 2 ^ w) = (n + 1) % 2 ^ w := by
  simp [nextAddr, Nat.add_mod]

/-- A region that does not wrap ends inside the address space (R62). -/
theorem regionWraps_false {w : Nat} {base : Nat} {len : Nat} :
    regionWraps w base len = false ↔ base + len ≤ 2 ^ w := by
  simp [regionWraps]

theorem inRegion_iff {base a : Nat} {len : Nat} : inRegion base len a = true ↔ base ≤ a ∧ a < base + len := by
  simp [inRegion]

/-- The address byte's direction bit (R72). -/
theorem addrByte_direction (addr7 : BitVec 7) (dir : BitVec 1) :
    (addrByte addr7 dir).getLsbD 0 = dir.getLsbD 0 := by
  simp [addrByte]

end Sys2Proof.Machine
end

