-- ==== Sys2Proof/Laws/Decode.lean ====
section
/-!
SUPPORT. The command descriptor field by field, at every width (spec/30_encoding.md R71): what each field of a packed
descriptor reads back as, what it decodes to, and that a descriptor is the fields it was read into.
-/

namespace Sys2Proof

/-! ### Fields -/

/-- A field fits its width. -/
theorem bitField_lt (d lo w : Nat) : bitField d lo w < 2 ^ w := Nat.mod_lt _ (Nat.two_pow_pos w)

/-- The lowest field of a row of fields. -/
theorem bitField_head {w v : Nat} (r : Nat) (h : v < 2 ^ w) : bitField (v + 2 ^ w * r) 0 w = v := by
  simp [bitField, Nat.add_mul_mod_self_left, Nat.mod_eq_of_lt h]

/-- Every field above the lowest. -/
theorem bitField_tail {w v : Nat} (r lo k : Nat) (h : v < 2 ^ w) :
    bitField (v + 2 ^ w * r) (w + lo) k = bitField r lo k := by
  rw [bitField, bitField, pow_add, ← Nat.div_div_eq_div_mul, Nat.add_mul_div_left _ _ (Nat.two_pow_pos w),
    Nat.div_eq_of_lt h, Nat.zero_add]

/-- What lies above the lowest field and above more bits. -/
theorem div_tail {w v : Nat} (r lo : Nat) (h : v < 2 ^ w) : (v + 2 ^ w * r) / 2 ^ (w + lo) = r / 2 ^ lo := by
  rw [pow_add, ← Nat.div_div_eq_div_mul, Nat.add_mul_div_left _ _ (Nat.two_pow_pos w), Nat.div_eq_of_lt h, Nat.zero_add]

/-- A number is its lowest field and what lies above it. -/
theorem bitField_split (d lo w : Nat) : d / 2 ^ lo = bitField d lo w + 2 ^ w * (d / 2 ^ (lo + w)) := by
  rw [bitField, pow_add, ← Nat.div_div_eq_div_mul, Nat.mod_add_div]

/-- A row of fields fits the sum of its widths. -/
theorem joinFields_lt (l : List (Nat × Nat)) (h : ∀ x ∈ l, x.2 < 2 ^ x.1) :
    joinFields l < 2 ^ (l.map Prod.fst).sum := by
  induction l with
  | nil => simp [joinFields]
  | cons x l ih =>
    obtain ⟨w, v⟩ := x
    have hv : v < 2 ^ w := h (w, v) (by simp)
    have hr := ih (fun y hy => h y (by simp [hy]))
    simp only [joinFields, List.map_cons, List.sum_cons, pow_add]
    calc v + 2 ^ w * joinFields l < 2 ^ w + 2 ^ w * joinFields l := by omega
      _ = 2 ^ w * (joinFields l + 1) := by ring
      _ ≤ 2 ^ w * 2 ^ (l.map Prod.fst).sum := Nat.mul_le_mul_left _ hr

/-! ### Decoding -/

/-- A descriptor that decodes is not too long. -/
theorem decodeCommand_ok {p : Params} {d : Nat} {i : Instr} (h : decodeCommand p d = .ok i) :
    d < 2 ^ p.descriptorBits ∧ decodeOp p d = .ok i := by
  unfold decodeCommand at h
  split at h
  · next hd => exact ⟨hd, h⟩
  · cases h

/-- Every transaction the decoder reads. -/
theorem decodeTransaction_ok {p : Params} {d : Nat} {i : Instr} (h : decodeTransaction p d = .ok i) :
    bitField d 15 1 = 0 ∧ d / 2 ^ p.transactionBits = 0 ∧
      (bitField d 0 3 = 3 ∧ i = .writeRead (BitVec.ofNat 7 (bitField d 8 7)) (bitField d p.bufAt p.addrW)
          (bitField d 16 p.cntW) (bitField d p.len1At p.cntW) ∨
        bitField d p.len1At p.cntW = 0 ∧
          (bitField d 0 3 = 1 ∧
              i = .write (BitVec.ofNat 7 (bitField d 8 7)) (bitField d p.bufAt p.addrW) (bitField d 16 p.cntW) ∨
            bitField d 0 3 ≠ 1 ∧ bitField d 0 3 ≠ 3 ∧
              i = .read (BitVec.ofNat 7 (bitField d 8 7)) (bitField d p.bufAt p.addrW) (bitField d 16 p.cntW))) := by
  simp only [decodeTransaction] at h
  split_ifs at h with h1 h2 h3 h4 h5 <;> cases h
  · exact ⟨not_not.mp h1, not_not.mp h2, .inl ⟨h3, rfl⟩⟩
  · exact ⟨not_not.mp h1, not_not.mp h2, .inr ⟨not_not.mp h4, .inl ⟨h5, rfl⟩⟩⟩
  · exact ⟨not_not.mp h1, not_not.mp h2, .inr ⟨not_not.mp h4, .inr ⟨h5, h3, rfl⟩⟩⟩

/-- Every command the decoder reads. -/
theorem decodeOp_ok {p : Params} {d : Nat} {i : Instr} (h : decodeOp p d = .ok i) :
    bitField d 0 3 = 6 ∧ i = .reservedOp6 (d / 2 ^ 3) ∨
    bitField d 0 3 = 7 ∧ i = .reservedOp7 (d / 2 ^ 3) ∨
    bitField d 3 5 = 0 ∧
      (bitField d 0 3 = 0 ∧ d / 2 ^ p.initBits = 0 ∧ i = .init (bitField d 8 p.divW) (bitField d p.preAt p.preW) ∨
        bitField d 0 3 = 4 ∧ d / 2 ^ 8 = 0 ∧ i = .isBusy ∨
        bitField d 0 3 = 5 ∧ d / 2 ^ 8 = 0 ∧ i = .getStatus ∨
        (bitField d 0 3 = 1 ∨ bitField d 0 3 = 2 ∨ bitField d 0 3 = 3) ∧ decodeTransaction p d = .ok i) := by
  have hop := bitField_lt d 0 3
  simp only [decodeOp] at h
  generalize decodeTransaction p d = r at h ⊢
  split_ifs at h with h6 h7 hz h0 hi h4 hq h5 hq
  · cases h; exact .inl ⟨h6, rfl⟩
  · cases h; exact .inr (.inl ⟨h7, rfl⟩)
  all_goals refine .inr (.inr ⟨not_not.mp hz, ?_⟩)
  · cases h; exact .inl ⟨h0, not_not.mp hi, rfl⟩
  · cases h; exact .inr (.inl ⟨h4, not_not.mp hq, rfl⟩)
  · cases h; exact .inr (.inr (.inl ⟨h5, not_not.mp hq, rfl⟩))
  · exact .inr (.inr (.inr ⟨by omega, h⟩))

/-! ### A descriptor is its fields -/

/-- A descriptor is its `op` and the rest. -/
theorem descriptor_split (d : Nat) : d = bitField d 0 3 + 2 ^ 3 * (d / 2 ^ 3) := by
  simpa using bitField_split d 0 3

/-- A query descriptor is its `op`. -/
theorem query_fields {d : Nat} (hz : bitField d 3 5 = 0) (h : d / 2 ^ 8 = 0) : d = bitField d 0 3 := by
  have e := descriptor_split d
  rw [bitField_split d 3 5, hz, h] at e
  simpa using e

/-- An INIT descriptor is the fields it was read into. -/
theorem packInit_fields {p : Params} {d : Nat} (h0 : bitField d 0 3 = 0) (hz : bitField d 3 5 = 0)
    (h : d / 2 ^ p.initBits = 0) : packInit p (bitField d 8 p.divW) (bitField d p.preAt p.preW) = d := by
  have e := descriptor_split d
  rw [bitField_split d 3 5, bitField_split d 8 p.divW, bitField_split d (8 + p.divW) p.preW, h0, hz] at e
  rw [show 8 + p.divW + p.preW = p.initBits from rfl, h] at e
  exact e.symm

/-- A transaction descriptor is the fields it was read into. -/
theorem packTransaction_fields {p : Params} {d : Nat} (hz : bitField d 3 5 = 0) (h15 : bitField d 15 1 = 0)
    (h : d / 2 ^ p.transactionBits = 0) :
    packTransaction p (bitField d 0 3) (BitVec.ofNat 7 (bitField d 8 7)) (bitField d 16 p.cntW)
      (bitField d p.len1At p.cntW) (bitField d p.bufAt p.addrW) = d := by
  have e := descriptor_split d
  rw [bitField_split d 3 5, bitField_split d 8 7, bitField_split d 15 1, bitField_split d 16 p.cntW,
    bitField_split d (16 + p.cntW) p.cntW, bitField_split d (16 + p.cntW + p.cntW) p.addrW, hz, h15] at e
  rw [show 16 + p.cntW + p.cntW + p.addrW = p.transactionBits from rfl, h] at e
  rw [packTransaction, BitVec.toNat_ofNat, Nat.mod_eq_of_lt (bitField_lt d 8 7)]
  exact e.symm

/-! ### Decoding what was packed -/

/-- A transaction's operands fit their fields. -/
structure OperandsFit (p : Params) (op len0 len1 buf : Nat) : Prop where
  op : op < 2 ^ 3
  len0 : len0 < 2 ^ p.cntW
  len1 : len1 < 2 ^ p.cntW
  buf : buf < 2 ^ p.addrW

/-- Every field of a packed transaction descriptor reads back, and nothing lies above them. -/
theorem bitField_packTransaction {p : Params} {op len0 len1 buf : Nat} (addr7 : BitVec 7)
    (h : OperandsFit p op len0 len1 buf) :
    let d := packTransaction p op addr7 len0 len1 buf
    bitField d 0 3 = op ∧ bitField d 3 5 = 0 ∧ bitField d 8 7 = addr7.toNat ∧ bitField d 15 1 = 0 ∧
      bitField d 16 p.cntW = len0 ∧ bitField d p.len1At p.cntW = len1 ∧ bitField d p.bufAt p.addrW = buf ∧
      d < 2 ^ p.transactionBits := by
  have z5 : (0 : Nat) < 2 ^ 5 := by decide
  have z1 : (0 : Nat) < 2 ^ 1 := by decide
  have ha : addr7.toNat < 2 ^ 7 := addr7.isLt
  simp only [packTransaction, joinFields, Params.len1At, Params.bufAt]
  refine ⟨bitField_head _ h.op, ?_, ?_, ?_, ?_, ?_, ?_, ?_⟩
  · rw [show 3 = 3 + 0 from rfl, bitField_tail _ _ _ h.op, bitField_head _ z5]
  · rw [show 8 = 3 + (5 + 0) from rfl, bitField_tail _ _ _ h.op, bitField_tail _ _ _ z5, bitField_head _ ha]
  · rw [show 15 = 3 + (5 + (7 + 0)) from rfl, bitField_tail _ _ _ h.op, bitField_tail _ _ _ z5,
      bitField_tail _ _ _ ha, bitField_head _ z1]
  · rw [show 16 = 3 + (5 + (7 + (1 + 0))) from rfl, bitField_tail _ _ _ h.op, bitField_tail _ _ _ z5,
      bitField_tail _ _ _ ha, bitField_tail _ _ _ z1, bitField_head _ h.len0]
  · rw [show 16 + p.cntW = 3 + (5 + (7 + (1 + (p.cntW + 0)))) by omega, bitField_tail _ _ _ h.op,
      bitField_tail _ _ _ z5, bitField_tail _ _ _ ha, bitField_tail _ _ _ z1, bitField_tail _ _ _ h.len0,
      bitField_head _ h.len1]
  · rw [show 16 + p.cntW + p.cntW = 3 + (5 + (7 + (1 + (p.cntW + (p.cntW + 0))))) by omega, bitField_tail _ _ _ h.op,
      bitField_tail _ _ _ z5, bitField_tail _ _ _ ha, bitField_tail _ _ _ z1, bitField_tail _ _ _ h.len0,
      bitField_tail _ _ _ h.len1, bitField_head _ h.buf]
  · have e := joinFields_lt [(3, op), (5, 0), (7, addr7.toNat), (1, 0), (p.cntW, len0), (p.cntW, len1), (p.addrW, buf)]
      (by have := h.op; simp [h.len0, h.len1, h.buf]; omega)
    rwa [show (List.map Prod.fst _).sum = p.transactionBits by
      simp only [List.map_cons, List.map_nil, List.sum_cons, List.sum_nil, Params.transactionBits]; omega] at e

/-- A packed transaction descriptor decodes to the transaction it packs. -/
theorem decodeCommand_packTransaction {p : Params} {op len0 len1 buf : Nat} (addr7 : BitVec 7)
    (h : OperandsFit p op len0 len1 buf) (hop : op = 1 ∨ op = 2 ∨ op = 3) (hz : op ≠ 3 → len1 = 0) :
    decodeCommand p (packTransaction p op addr7 len0 len1 buf) =
      .ok (if op = 3 then .writeRead addr7 buf len0 len1
        else if op = 1 then .write addr7 buf len0 else .read addr7 buf len0) := by
  obtain ⟨h1, h2, h3, h4, h5, h6, h7, h8⟩ := bitField_packTransaction addr7 h
  have hb : packTransaction p op addr7 len0 len1 buf < 2 ^ p.descriptorBits :=
    h8.trans_le (Nat.pow_le_pow_right (by decide) (Nat.le_max_left _ _))
  rw [decodeCommand, if_pos hb]
  simp only [decodeOp, decodeTransaction, h1, h2, h3, h4, h5, h6, h7, Nat.div_eq_of_lt h8, BitVec.ofNat_toNat]
  rcases hop with rfl | rfl | rfl <;> simp at hz ⊢ <;> simp [hz]

/-- A packed INIT descriptor decodes to the INIT it packs. -/
theorem decodeCommand_packInit {p : Params} {div pre : Nat} (hd : div < 2 ^ p.divW) (hp : pre < 2 ^ p.preW) :
    decodeCommand p (packInit p div pre) = .ok (.init div pre) := by
  have z3 : (0 : Nat) < 2 ^ 3 := by decide
  have z5 : (0 : Nat) < 2 ^ 5 := by decide
  have h8 : packInit p div pre < 2 ^ p.initBits := by
    have e := joinFields_lt [(3, 0), (5, 0), (p.divW, div), (p.preW, pre)] (by simp [hd, hp])
    rwa [show (List.map Prod.fst _).sum = p.initBits by
      simp only [List.map_cons, List.map_nil, List.sum_cons, List.sum_nil, Params.initBits]; omega] at e
  have hb : packInit p div pre < 2 ^ p.descriptorBits :=
    h8.trans_le (Nat.pow_le_pow_right (by decide) (Nat.le_max_right _ _))
  have h1 : bitField (packInit p div pre) 0 3 = 0 := bitField_head _ z3
  have h2 : bitField (packInit p div pre) 3 5 = 0 := by
    rw [packInit, joinFields, show 3 = 3 + 0 from rfl, bitField_tail _ _ _ z3, joinFields, bitField_head _ z5]
  have h3 : bitField (packInit p div pre) 8 p.divW = div := by
    simp only [packInit, joinFields]
    rw [show 8 = 3 + (5 + 0) from rfl, bitField_tail _ _ _ z3, bitField_tail _ _ _ z5, bitField_head _ hd]
  have h4 : bitField (packInit p div pre) p.preAt p.preW = pre := by
    simp only [packInit, joinFields, Params.preAt]
    rw [show 8 + p.divW = 3 + (5 + (p.divW + 0)) by omega, bitField_tail _ _ _ z3, bitField_tail _ _ _ z5,
      bitField_tail _ _ _ hd, bitField_head _ hp]
  rw [decodeCommand, if_pos hb]
  simp [decodeOp, h1, h2, h3, h4, Nat.div_eq_of_lt h8]

/-- A reserved `op` decodes with the rest of its descriptor. -/
theorem decodeCommand_reserved {p : Params} {rest : Nat} (h : rest < 2 ^ (p.descriptorBits - 3)) :
    decodeCommand p (6 + 2 ^ 3 * rest) = .ok (.reservedOp6 rest) ∧
      decodeCommand p (7 + 2 ^ 3 * rest) = .ok (.reservedOp7 rest) := by
  have hw : 3 ≤ p.descriptorBits := le_trans (by simp [Params.initBits]; omega) (Nat.le_max_right _ _)
  have hb : 2 ^ p.descriptorBits = 2 ^ 3 * 2 ^ (p.descriptorBits - 3) := by rw [← pow_add]; congr 1; omega
  have key : ∀ o, o < 2 ^ 3 → o + 2 ^ 3 * rest < 2 ^ p.descriptorBits := fun o ho => by
    rw [hb]; generalize 2 ^ (p.descriptorBits - 3) = m at h; omega
  have top : ∀ o, o < 2 ^ 3 → (o + 2 ^ 3 * rest) / 2 ^ 3 = rest := fun o ho => by omega
  constructor
  · rw [decodeCommand, if_pos (key 6 (by decide)), decodeOp, bitField_head _ (by decide), top 6 (by decide)]; rfl
  · rw [decodeCommand, if_pos (key 7 (by decide)), decodeOp, bitField_head _ (by decide), top 7 (by decide)]; rfl

/-- The two queries decode. -/
theorem decodeCommand_query (p : Params) :
    decodeCommand p 4 = .ok .isBusy ∧ decodeCommand p 5 = .ok .getStatus := by
  have hb : 2 ^ 8 ≤ 2 ^ p.descriptorBits :=
    Nat.pow_le_pow_right (by decide) (le_trans (by simp [Params.initBits]; omega) (Nat.le_max_right _ _))
  constructor
  · rw [decodeCommand, if_pos (lt_of_lt_of_le (by decide) hb)]; rfl
  · rw [decodeCommand, if_pos (lt_of_lt_of_le (by decide) hb)]; rfl

end Sys2Proof
end

