-- ==== Sys2Proof/Laws/State.lean ====
section
/-!
SUPPORT. One lemma per field per update of State, each true by unfolding, so that no proof unfolds a record update.
-/

namespace Sys2Proof.Machine

/-! ### ctrlWrite -/

@[simp] theorem ctrlWrite_params (w : CtlWord) (s : State) : (ctrlWrite w s).params = s.params := rfl
@[simp] theorem ctrlWrite_ta (w : CtlWord) (s : State) : (ctrlWrite w s).ta = s.ta := rfl
@[simp] theorem ctrlWrite_wptr (w : CtlWord) (s : State) : (ctrlWrite w s).wptr = s.wptr := rfl
@[simp] theorem ctrlWrite_wcnt (w : CtlWord) (s : State) : (ctrlWrite w s).wcnt = s.wcnt := rfl
@[simp] theorem ctrlWrite_rptr (w : CtlWord) (s : State) : (ctrlWrite w s).rptr = s.rptr := rfl
@[simp] theorem ctrlWrite_rcnt (w : CtlWord) (s : State) : (ctrlWrite w s).rcnt = s.rcnt := rfl
@[simp] theorem ctrlWrite_outcome (w : CtlWord) (s : State) : (ctrlWrite w s).outcome = s.outcome := rfl
@[simp] theorem ctrlWrite_errsig (w : CtlWord) (s : State) : (ctrlWrite w s).errsig = s.errsig := rfl
@[simp] theorem ctrlWrite_ctrl (w : CtlWord) (s : State) :
    (ctrlWrite w s).ctrl =
      { en := (controlFields w).en, ie := (controlFields w).ie, sta := (controlFields w).sta, sto := (controlFields w).sto,
        ea := (controlFields w).ea, iflag := if (controlFields w).rearm then false else s.ctrl.iflag } := rfl
@[simp] theorem ctrlWrite_data (w : CtlWord) (s : State) : (ctrlWrite w s).data = s.data := rfl
@[simp] theorem ctrlWrite_status (w : CtlWord) (s : State) : (ctrlWrite w s).status = s.status := rfl
@[simp] theorem ctrlWrite_clkdiv (w : CtlWord) (s : State) : (ctrlWrite w s).clkdiv = s.clkdiv := rfl
@[simp] theorem ctrlWrite_clkpre (w : CtlWord) (s : State) : (ctrlWrite w s).clkpre = s.clkpre := rfl
@[simp] theorem ctrlWrite_port (w : CtlWord) (s : State) : (ctrlWrite w s).port = portLatch w s.port := rfl
@[simp] theorem ctrlWrite_mem (w : CtlWord) (s : State) : (ctrlWrite w s).mem = s.mem := rfl
@[simp] theorem ctrlWrite_borrow (w : CtlWord) (s : State) : (ctrlWrite w s).borrow = s.borrow := rfl
@[simp] theorem ctrlWrite_presented (w : CtlWord) (s : State) : (ctrlWrite w s).presented = s.presented := rfl
@[simp] theorem ctrlWrite_response (w : CtlWord) (s : State) : (ctrlWrite w s).response = s.response := rfl
@[simp] theorem ctrlWrite_hostByte (w : CtlWord) (s : State) : (ctrlWrite w s).hostByte = s.hostByte := rfl
@[simp] theorem ctrlWrite_trace (w : CtlWord) (s : State) : (ctrlWrite w s).trace = s.trace ++ [.ctl w] := rfl
@[simp] theorem ctrlWrite_faults (w : CtlWord) (s : State) : (ctrlWrite w s).faults = s.faults := rfl
@[simp] theorem ctrlWrite_hostScript (w : CtlWord) (s : State) : (ctrlWrite w s).hostScript = s.hostScript := rfl
@[simp] theorem ctrlWrite_portScript (w : CtlWord) (s : State) : (ctrlWrite w s).portScript = s.portScript := rfl
@[simp] theorem ctrlWrite_schedule (w : CtlWord) (s : State) : (ctrlWrite w s).schedule = s.schedule := rfl
@[simp] theorem ctrlWrite_draws (w : CtlWord) (s : State) : (ctrlWrite w s).draws = s.draws := rfl

/-! ### dataWrite -/

@[simp] theorem dataWrite_params (b : Byte) (s : State) : (dataWrite b s).params = s.params := rfl
@[simp] theorem dataWrite_ta (b : Byte) (s : State) : (dataWrite b s).ta = s.ta := rfl
@[simp] theorem dataWrite_wptr (b : Byte) (s : State) : (dataWrite b s).wptr = s.wptr := rfl
@[simp] theorem dataWrite_wcnt (b : Byte) (s : State) : (dataWrite b s).wcnt = s.wcnt := rfl
@[simp] theorem dataWrite_rptr (b : Byte) (s : State) : (dataWrite b s).rptr = s.rptr := rfl
@[simp] theorem dataWrite_rcnt (b : Byte) (s : State) : (dataWrite b s).rcnt = s.rcnt := rfl
@[simp] theorem dataWrite_outcome (b : Byte) (s : State) : (dataWrite b s).outcome = s.outcome := rfl
@[simp] theorem dataWrite_errsig (b : Byte) (s : State) : (dataWrite b s).errsig = s.errsig := rfl
@[simp] theorem dataWrite_ctrl (b : Byte) (s : State) : (dataWrite b s).ctrl = s.ctrl := rfl
@[simp] theorem dataWrite_data (b : Byte) (s : State) : (dataWrite b s).data = b := rfl
@[simp] theorem dataWrite_status (b : Byte) (s : State) : (dataWrite b s).status = s.status := rfl
@[simp] theorem dataWrite_clkdiv (b : Byte) (s : State) : (dataWrite b s).clkdiv = s.clkdiv := rfl
@[simp] theorem dataWrite_clkpre (b : Byte) (s : State) : (dataWrite b s).clkpre = s.clkpre := rfl
@[simp] theorem dataWrite_port (b : Byte) (s : State) : (dataWrite b s).port = s.port := rfl
@[simp] theorem dataWrite_mem (b : Byte) (s : State) : (dataWrite b s).mem = s.mem := rfl
@[simp] theorem dataWrite_borrow (b : Byte) (s : State) : (dataWrite b s).borrow = s.borrow := rfl
@[simp] theorem dataWrite_presented (b : Byte) (s : State) : (dataWrite b s).presented = s.presented := rfl
@[simp] theorem dataWrite_response (b : Byte) (s : State) : (dataWrite b s).response = s.response := rfl
@[simp] theorem dataWrite_hostByte (b : Byte) (s : State) : (dataWrite b s).hostByte = s.hostByte := rfl
@[simp] theorem dataWrite_trace (b : Byte) (s : State) : (dataWrite b s).trace = s.trace ++ [.dat b] := rfl
@[simp] theorem dataWrite_faults (b : Byte) (s : State) : (dataWrite b s).faults = s.faults := rfl
@[simp] theorem dataWrite_hostScript (b : Byte) (s : State) : (dataWrite b s).hostScript = s.hostScript := rfl
@[simp] theorem dataWrite_portScript (b : Byte) (s : State) : (dataWrite b s).portScript = s.portScript := rfl
@[simp] theorem dataWrite_schedule (b : Byte) (s : State) : (dataWrite b s).schedule = s.schedule := rfl
@[simp] theorem dataWrite_draws (b : Byte) (s : State) : (dataWrite b s).draws = s.draws := rfl

/-! ### memWrite -/

@[simp] theorem memWrite_params (a : Nat) (v : Byte) (s : State) : (memWrite a v s).params = s.params := rfl
@[simp] theorem memWrite_ta (a : Nat) (v : Byte) (s : State) : (memWrite a v s).ta = s.ta := rfl
@[simp] theorem memWrite_wptr (a : Nat) (v : Byte) (s : State) : (memWrite a v s).wptr = s.wptr := rfl
@[simp] theorem memWrite_wcnt (a : Nat) (v : Byte) (s : State) : (memWrite a v s).wcnt = s.wcnt := rfl
@[simp] theorem memWrite_rptr (a : Nat) (v : Byte) (s : State) : (memWrite a v s).rptr = s.rptr := rfl
@[simp] theorem memWrite_rcnt (a : Nat) (v : Byte) (s : State) : (memWrite a v s).rcnt = s.rcnt := rfl
@[simp] theorem memWrite_outcome (a : Nat) (v : Byte) (s : State) : (memWrite a v s).outcome = s.outcome := rfl
@[simp] theorem memWrite_errsig (a : Nat) (v : Byte) (s : State) : (memWrite a v s).errsig = s.errsig := rfl
@[simp] theorem memWrite_ctrl (a : Nat) (v : Byte) (s : State) : (memWrite a v s).ctrl = s.ctrl := rfl
@[simp] theorem memWrite_data (a : Nat) (v : Byte) (s : State) : (memWrite a v s).data = s.data := rfl
@[simp] theorem memWrite_status (a : Nat) (v : Byte) (s : State) : (memWrite a v s).status = s.status := rfl
@[simp] theorem memWrite_clkdiv (a : Nat) (v : Byte) (s : State) : (memWrite a v s).clkdiv = s.clkdiv := rfl
@[simp] theorem memWrite_clkpre (a : Nat) (v : Byte) (s : State) : (memWrite a v s).clkpre = s.clkpre := rfl
@[simp] theorem memWrite_port (a : Nat) (v : Byte) (s : State) : (memWrite a v s).port = s.port := rfl
@[simp] theorem memWrite_mem (a : Nat) (v : Byte) (s : State) : (memWrite a v s).mem = memPut s.mem a v := rfl
@[simp] theorem memWrite_borrow (a : Nat) (v : Byte) (s : State) : (memWrite a v s).borrow = s.borrow := rfl
@[simp] theorem memWrite_presented (a : Nat) (v : Byte) (s : State) : (memWrite a v s).presented = s.presented := rfl
@[simp] theorem memWrite_response (a : Nat) (v : Byte) (s : State) : (memWrite a v s).response = s.response := rfl
@[simp] theorem memWrite_hostByte (a : Nat) (v : Byte) (s : State) : (memWrite a v s).hostByte = s.hostByte := rfl
@[simp] theorem memWrite_trace (a : Nat) (v : Byte) (s : State) : (memWrite a v s).trace = s.trace := rfl
@[simp] theorem memWrite_faults (a : Nat) (v : Byte) (s : State) : (memWrite a v s).faults = s.faults := rfl
@[simp] theorem memWrite_hostScript (a : Nat) (v : Byte) (s : State) : (memWrite a v s).hostScript = s.hostScript := rfl
@[simp] theorem memWrite_portScript (a : Nat) (v : Byte) (s : State) : (memWrite a v s).portScript = s.portScript := rfl
@[simp] theorem memWrite_schedule (a : Nat) (v : Byte) (s : State) : (memWrite a v s).schedule = s.schedule := rfl
@[simp] theorem memWrite_draws (a : Nat) (v : Byte) (s : State) : (memWrite a v s).draws = s.draws := rfl

/-! ### raise -/

@[simp] theorem raise_params (f : Fault) (s : State) : (raise f s).params = s.params := rfl
@[simp] theorem raise_ta (f : Fault) (s : State) : (raise f s).ta = s.ta := rfl
@[simp] theorem raise_wptr (f : Fault) (s : State) : (raise f s).wptr = s.wptr := rfl
@[simp] theorem raise_wcnt (f : Fault) (s : State) : (raise f s).wcnt = s.wcnt := rfl
@[simp] theorem raise_rptr (f : Fault) (s : State) : (raise f s).rptr = s.rptr := rfl
@[simp] theorem raise_rcnt (f : Fault) (s : State) : (raise f s).rcnt = s.rcnt := rfl
@[simp] theorem raise_outcome (f : Fault) (s : State) : (raise f s).outcome = s.outcome := rfl
@[simp] theorem raise_errsig (f : Fault) (s : State) : (raise f s).errsig = s.errsig := rfl
@[simp] theorem raise_ctrl (f : Fault) (s : State) : (raise f s).ctrl = s.ctrl := rfl
@[simp] theorem raise_data (f : Fault) (s : State) : (raise f s).data = s.data := rfl
@[simp] theorem raise_status (f : Fault) (s : State) : (raise f s).status = s.status := rfl
@[simp] theorem raise_clkdiv (f : Fault) (s : State) : (raise f s).clkdiv = s.clkdiv := rfl
@[simp] theorem raise_clkpre (f : Fault) (s : State) : (raise f s).clkpre = s.clkpre := rfl
@[simp] theorem raise_port (f : Fault) (s : State) : (raise f s).port = s.port := rfl
@[simp] theorem raise_mem (f : Fault) (s : State) : (raise f s).mem = s.mem := rfl
@[simp] theorem raise_borrow (f : Fault) (s : State) : (raise f s).borrow = s.borrow := rfl
@[simp] theorem raise_presented (f : Fault) (s : State) : (raise f s).presented = s.presented := rfl
@[simp] theorem raise_response (f : Fault) (s : State) : (raise f s).response = s.response := rfl
@[simp] theorem raise_hostByte (f : Fault) (s : State) : (raise f s).hostByte = s.hostByte := rfl
@[simp] theorem raise_trace (f : Fault) (s : State) : (raise f s).trace = s.trace := rfl
@[simp] theorem raise_faults (f : Fault) (s : State) : (raise f s).faults = recordFault f s.faults := rfl
@[simp] theorem raise_hostScript (f : Fault) (s : State) : (raise f s).hostScript = s.hostScript := rfl
@[simp] theorem raise_portScript (f : Fault) (s : State) : (raise f s).portScript = s.portScript := rfl
@[simp] theorem raise_schedule (f : Fault) (s : State) : (raise f s).schedule = s.schedule := rfl
@[simp] theorem raise_draws (f : Fault) (s : State) : (raise f s).draws = s.draws := rfl

/-! ### accept -/

@[simp] theorem accept_params (r : Option (BitVec 1)) (s : State) : (accept r s).params = s.params := rfl
@[simp] theorem accept_ta (r : Option (BitVec 1)) (s : State) : (accept r s).ta = s.ta := rfl
@[simp] theorem accept_wptr (r : Option (BitVec 1)) (s : State) : (accept r s).wptr = s.wptr := rfl
@[simp] theorem accept_wcnt (r : Option (BitVec 1)) (s : State) : (accept r s).wcnt = s.wcnt := rfl
@[simp] theorem accept_rptr (r : Option (BitVec 1)) (s : State) : (accept r s).rptr = s.rptr := rfl
@[simp] theorem accept_rcnt (r : Option (BitVec 1)) (s : State) : (accept r s).rcnt = s.rcnt := rfl
@[simp] theorem accept_outcome (r : Option (BitVec 1)) (s : State) : (accept r s).outcome = s.outcome := rfl
@[simp] theorem accept_errsig (r : Option (BitVec 1)) (s : State) : (accept r s).errsig = s.errsig := rfl
@[simp] theorem accept_ctrl (r : Option (BitVec 1)) (s : State) : (accept r s).ctrl = s.ctrl := rfl
@[simp] theorem accept_data (r : Option (BitVec 1)) (s : State) : (accept r s).data = s.data := rfl
@[simp] theorem accept_status (r : Option (BitVec 1)) (s : State) : (accept r s).status = s.status := rfl
@[simp] theorem accept_clkdiv (r : Option (BitVec 1)) (s : State) : (accept r s).clkdiv = s.clkdiv := rfl
@[simp] theorem accept_clkpre (r : Option (BitVec 1)) (s : State) : (accept r s).clkpre = s.clkpre := rfl
@[simp] theorem accept_port (r : Option (BitVec 1)) (s : State) : (accept r s).port = s.port := rfl
@[simp] theorem accept_mem (r : Option (BitVec 1)) (s : State) : (accept r s).mem = s.mem := rfl
@[simp] theorem accept_borrow (r : Option (BitVec 1)) (s : State) : (accept r s).borrow = s.borrow := rfl
@[simp] theorem accept_presented (r : Option (BitVec 1)) (s : State) : (accept r s).presented = none := rfl
@[simp] theorem accept_response (r : Option (BitVec 1)) (s : State) : (accept r s).response = r := rfl
@[simp] theorem accept_hostByte (r : Option (BitVec 1)) (s : State) : (accept r s).hostByte = s.hostByte := rfl
@[simp] theorem accept_trace (r : Option (BitVec 1)) (s : State) : (accept r s).trace = s.trace := rfl
@[simp] theorem accept_faults (r : Option (BitVec 1)) (s : State) : (accept r s).faults = s.faults := rfl
@[simp] theorem accept_hostScript (r : Option (BitVec 1)) (s : State) : (accept r s).hostScript = s.hostScript := rfl
@[simp] theorem accept_portScript (r : Option (BitVec 1)) (s : State) : (accept r s).portScript = s.portScript := rfl
@[simp] theorem accept_schedule (r : Option (BitVec 1)) (s : State) : (accept r s).schedule = s.schedule := rfl
@[simp] theorem accept_draws (r : Option (BitVec 1)) (s : State) : (accept r s).draws = s.draws := rfl

/-! ### rejectCommand -/

@[simp] theorem rejectCommand_params (f : Fault) (s : State) : (rejectCommand f s).params = s.params := rfl
@[simp] theorem rejectCommand_ta (f : Fault) (s : State) : (rejectCommand f s).ta = s.ta := rfl
@[simp] theorem rejectCommand_wptr (f : Fault) (s : State) : (rejectCommand f s).wptr = s.wptr := rfl
@[simp] theorem rejectCommand_wcnt (f : Fault) (s : State) : (rejectCommand f s).wcnt = s.wcnt := rfl
@[simp] theorem rejectCommand_rptr (f : Fault) (s : State) : (rejectCommand f s).rptr = s.rptr := rfl
@[simp] theorem rejectCommand_rcnt (f : Fault) (s : State) : (rejectCommand f s).rcnt = s.rcnt := rfl
@[simp] theorem rejectCommand_outcome (f : Fault) (s : State) : (rejectCommand f s).outcome = s.outcome := rfl
@[simp] theorem rejectCommand_errsig (f : Fault) (s : State) : (rejectCommand f s).errsig = s.errsig := rfl
@[simp] theorem rejectCommand_ctrl (f : Fault) (s : State) : (rejectCommand f s).ctrl = s.ctrl := rfl
@[simp] theorem rejectCommand_data (f : Fault) (s : State) : (rejectCommand f s).data = s.data := rfl
@[simp] theorem rejectCommand_status (f : Fault) (s : State) : (rejectCommand f s).status = s.status := rfl
@[simp] theorem rejectCommand_clkdiv (f : Fault) (s : State) : (rejectCommand f s).clkdiv = s.clkdiv := rfl
@[simp] theorem rejectCommand_clkpre (f : Fault) (s : State) : (rejectCommand f s).clkpre = s.clkpre := rfl
@[simp] theorem rejectCommand_port (f : Fault) (s : State) : (rejectCommand f s).port = s.port := rfl
@[simp] theorem rejectCommand_mem (f : Fault) (s : State) : (rejectCommand f s).mem = s.mem := rfl
@[simp] theorem rejectCommand_borrow (f : Fault) (s : State) : (rejectCommand f s).borrow = s.borrow := rfl
@[simp] theorem rejectCommand_presented (f : Fault) (s : State) : (rejectCommand f s).presented = none := rfl
@[simp] theorem rejectCommand_response (f : Fault) (s : State) : (rejectCommand f s).response = none := rfl
@[simp] theorem rejectCommand_hostByte (f : Fault) (s : State) : (rejectCommand f s).hostByte = s.hostByte := rfl
@[simp] theorem rejectCommand_trace (f : Fault) (s : State) : (rejectCommand f s).trace = s.trace := rfl
@[simp] theorem rejectCommand_faults (f : Fault) (s : State) :
    (rejectCommand f s).faults = recordFault f s.faults := rfl
@[simp] theorem rejectCommand_hostScript (f : Fault) (s : State) : (rejectCommand f s).hostScript = s.hostScript := rfl
@[simp] theorem rejectCommand_portScript (f : Fault) (s : State) : (rejectCommand f s).portScript = s.portScript := rfl
@[simp] theorem rejectCommand_schedule (f : Fault) (s : State) : (rejectCommand f s).schedule = s.schedule := rfl
@[simp] theorem rejectCommand_draws (f : Fault) (s : State) : (rejectCommand f s).draws = s.draws := rfl

/-! ### observeIdle -/

@[simp] theorem observeIdle_params (s : State) : (observeIdle s).params = s.params := rfl
@[simp] theorem observeIdle_ta (s : State) : (observeIdle s).ta = s.ta := rfl
@[simp] theorem observeIdle_wptr (s : State) : (observeIdle s).wptr = s.wptr := rfl
@[simp] theorem observeIdle_wcnt (s : State) : (observeIdle s).wcnt = s.wcnt := rfl
@[simp] theorem observeIdle_rptr (s : State) : (observeIdle s).rptr = s.rptr := rfl
@[simp] theorem observeIdle_rcnt (s : State) : (observeIdle s).rcnt = s.rcnt := rfl
@[simp] theorem observeIdle_outcome (s : State) : (observeIdle s).outcome = s.outcome := rfl
@[simp] theorem observeIdle_errsig (s : State) : (observeIdle s).errsig = s.errsig := rfl
@[simp] theorem observeIdle_ctrl (s : State) : (observeIdle s).ctrl = s.ctrl := rfl
@[simp] theorem observeIdle_data (s : State) : (observeIdle s).data = s.data := rfl
@[simp] theorem observeIdle_status (s : State) : (observeIdle s).status = s.status := rfl
@[simp] theorem observeIdle_clkdiv (s : State) : (observeIdle s).clkdiv = s.clkdiv := rfl
@[simp] theorem observeIdle_clkpre (s : State) : (observeIdle s).clkpre = s.clkpre := rfl
@[simp] theorem observeIdle_port (s : State) : (observeIdle s).port = s.port := rfl
@[simp] theorem observeIdle_mem (s : State) : (observeIdle s).mem = s.mem := rfl
@[simp] theorem observeIdle_borrow (s : State) : (observeIdle s).borrow = if busy s then s.borrow else none := rfl
@[simp] theorem observeIdle_presented (s : State) : (observeIdle s).presented = s.presented := rfl
@[simp] theorem observeIdle_response (s : State) : (observeIdle s).response = s.response := rfl
@[simp] theorem observeIdle_hostByte (s : State) : (observeIdle s).hostByte = s.hostByte := rfl
@[simp] theorem observeIdle_trace (s : State) : (observeIdle s).trace = s.trace := rfl
@[simp] theorem observeIdle_faults (s : State) : (observeIdle s).faults = s.faults := rfl
@[simp] theorem observeIdle_hostScript (s : State) : (observeIdle s).hostScript = s.hostScript := rfl
@[simp] theorem observeIdle_portScript (s : State) : (observeIdle s).portScript = s.portScript := rfl
@[simp] theorem observeIdle_schedule (s : State) : (observeIdle s).schedule = s.schedule := rfl
@[simp] theorem observeIdle_draws (s : State) : (observeIdle s).draws = s.draws := rfl

/-! ### sendNextByte -/

@[simp] theorem sendNextByte_params (s : State) : (sendNextByte s).params = s.params := rfl
@[simp] theorem sendNextByte_ta (s : State) : (sendNextByte s).ta = s.ta := rfl
@[simp] theorem sendNextByte_wptr (s : State) : (sendNextByte s).wptr = nextAddr s.params.addrW s.wptr := rfl
@[simp] theorem sendNextByte_wcnt (s : State) : (sendNextByte s).wcnt = s.wcnt - 1 := rfl
@[simp] theorem sendNextByte_rptr (s : State) : (sendNextByte s).rptr = s.rptr := rfl
@[simp] theorem sendNextByte_rcnt (s : State) : (sendNextByte s).rcnt = s.rcnt := rfl
@[simp] theorem sendNextByte_outcome (s : State) : (sendNextByte s).outcome = s.outcome := rfl
@[simp] theorem sendNextByte_errsig (s : State) : (sendNextByte s).errsig = s.errsig := rfl
@[simp] theorem sendNextByte_ctrl (s : State) : (sendNextByte s).ctrl = s.ctrl := rfl
@[simp] theorem sendNextByte_data (s : State) : (sendNextByte s).data = memRead s s.wptr := rfl
@[simp] theorem sendNextByte_status (s : State) : (sendNextByte s).status = s.status := rfl
@[simp] theorem sendNextByte_clkdiv (s : State) : (sendNextByte s).clkdiv = s.clkdiv := rfl
@[simp] theorem sendNextByte_clkpre (s : State) : (sendNextByte s).clkpre = s.clkpre := rfl
@[simp] theorem sendNextByte_port (s : State) : (sendNextByte s).port = s.port := rfl
@[simp] theorem sendNextByte_mem (s : State) : (sendNextByte s).mem = s.mem := rfl
@[simp] theorem sendNextByte_borrow (s : State) : (sendNextByte s).borrow = s.borrow := rfl
@[simp] theorem sendNextByte_presented (s : State) : (sendNextByte s).presented = s.presented := rfl
@[simp] theorem sendNextByte_response (s : State) : (sendNextByte s).response = s.response := rfl
@[simp] theorem sendNextByte_hostByte (s : State) : (sendNextByte s).hostByte = s.hostByte := rfl
@[simp] theorem sendNextByte_trace (s : State) : (sendNextByte s).trace = s.trace ++ [.dat (memRead s s.wptr)] := rfl
@[simp] theorem sendNextByte_faults (s : State) : (sendNextByte s).faults = s.faults := rfl
@[simp] theorem sendNextByte_hostScript (s : State) : (sendNextByte s).hostScript = s.hostScript := rfl
@[simp] theorem sendNextByte_portScript (s : State) : (sendNextByte s).portScript = s.portScript := rfl
@[simp] theorem sendNextByte_schedule (s : State) : (sendNextByte s).schedule = s.schedule := rfl
@[simp] theorem sendNextByte_draws (s : State) : (sendNextByte s).draws = s.draws := rfl

/-! ### storeByte -/

@[simp] theorem storeByte_params (d : Byte) (s : State) : (storeByte d s).params = s.params := rfl
@[simp] theorem storeByte_ta (d : Byte) (s : State) : (storeByte d s).ta = s.ta := rfl
@[simp] theorem storeByte_wptr (d : Byte) (s : State) : (storeByte d s).wptr = s.wptr := rfl
@[simp] theorem storeByte_wcnt (d : Byte) (s : State) : (storeByte d s).wcnt = s.wcnt := rfl
@[simp] theorem storeByte_rptr (d : Byte) (s : State) : (storeByte d s).rptr = nextAddr s.params.addrW s.rptr := rfl
@[simp] theorem storeByte_rcnt (d : Byte) (s : State) : (storeByte d s).rcnt = s.rcnt - 1 := rfl
@[simp] theorem storeByte_outcome (d : Byte) (s : State) : (storeByte d s).outcome = s.outcome := rfl
@[simp] theorem storeByte_errsig (d : Byte) (s : State) : (storeByte d s).errsig = s.errsig := rfl
@[simp] theorem storeByte_ctrl (d : Byte) (s : State) : (storeByte d s).ctrl = s.ctrl := rfl
@[simp] theorem storeByte_data (d : Byte) (s : State) : (storeByte d s).data = s.data := rfl
@[simp] theorem storeByte_status (d : Byte) (s : State) : (storeByte d s).status = s.status := rfl
@[simp] theorem storeByte_clkdiv (d : Byte) (s : State) : (storeByte d s).clkdiv = s.clkdiv := rfl
@[simp] theorem storeByte_clkpre (d : Byte) (s : State) : (storeByte d s).clkpre = s.clkpre := rfl
@[simp] theorem storeByte_port (d : Byte) (s : State) : (storeByte d s).port = s.port := rfl
@[simp] theorem storeByte_mem (d : Byte) (s : State) : (storeByte d s).mem = memPut s.mem s.rptr d := rfl
@[simp] theorem storeByte_borrow (d : Byte) (s : State) : (storeByte d s).borrow = s.borrow := rfl
@[simp] theorem storeByte_presented (d : Byte) (s : State) : (storeByte d s).presented = s.presented := rfl
@[simp] theorem storeByte_response (d : Byte) (s : State) : (storeByte d s).response = s.response := rfl
@[simp] theorem storeByte_hostByte (d : Byte) (s : State) : (storeByte d s).hostByte = s.hostByte := rfl
@[simp] theorem storeByte_trace (d : Byte) (s : State) : (storeByte d s).trace = s.trace := rfl
@[simp] theorem storeByte_faults (d : Byte) (s : State) : (storeByte d s).faults = s.faults := rfl
@[simp] theorem storeByte_hostScript (d : Byte) (s : State) : (storeByte d s).hostScript = s.hostScript := rfl
@[simp] theorem storeByte_portScript (d : Byte) (s : State) : (storeByte d s).portScript = s.portScript := rfl
@[simp] theorem storeByte_schedule (d : Byte) (s : State) : (storeByte d s).schedule = s.schedule := rfl
@[simp] theorem storeByte_draws (d : Byte) (s : State) : (storeByte d s).draws = s.draws := rfl

/-! ### deliver -/

@[simp] theorem deliver_params (c : EventClass) (e : PortEvent) (s : State) : (deliver c e s).params = s.params := rfl
@[simp] theorem deliver_ta (c : EventClass) (e : PortEvent) (s : State) : (deliver c e s).ta = s.ta := rfl
@[simp] theorem deliver_wptr (c : EventClass) (e : PortEvent) (s : State) : (deliver c e s).wptr = s.wptr := rfl
@[simp] theorem deliver_wcnt (c : EventClass) (e : PortEvent) (s : State) : (deliver c e s).wcnt = s.wcnt := rfl
@[simp] theorem deliver_rptr (c : EventClass) (e : PortEvent) (s : State) : (deliver c e s).rptr = s.rptr := rfl
@[simp] theorem deliver_rcnt (c : EventClass) (e : PortEvent) (s : State) : (deliver c e s).rcnt = s.rcnt := rfl
@[simp] theorem deliver_outcome (c : EventClass) (e : PortEvent) (s : State) :
    (deliver c e s).outcome = s.outcome := rfl
@[simp] theorem deliver_errsig (c : EventClass) (e : PortEvent) (s : State) : (deliver c e s).errsig = s.errsig := rfl
@[simp] theorem deliver_ctrl (c : EventClass) (e : PortEvent) (s : State) :
    (deliver c e s).ctrl = { s.ctrl with iflag := true } := rfl
@[simp] theorem deliver_data (c : EventClass) (e : PortEvent) (s : State) : (deliver c e s).data = e.data := rfl
@[simp] theorem deliver_status (c : EventClass) (e : PortEvent) (s : State) : (deliver c e s).status = e.status := rfl
@[simp] theorem deliver_clkdiv (c : EventClass) (e : PortEvent) (s : State) : (deliver c e s).clkdiv = s.clkdiv := rfl
@[simp] theorem deliver_clkpre (c : EventClass) (e : PortEvent) (s : State) : (deliver c e s).clkpre = s.clkpre := rfl
@[simp] theorem deliver_port (c : EventClass) (e : PortEvent) (s : State) :
    (deliver c e s).port = portObserve c s.port := rfl
@[simp] theorem deliver_mem (c : EventClass) (e : PortEvent) (s : State) : (deliver c e s).mem = s.mem := rfl
@[simp] theorem deliver_borrow (c : EventClass) (e : PortEvent) (s : State) : (deliver c e s).borrow = s.borrow := rfl
@[simp] theorem deliver_presented (c : EventClass) (e : PortEvent) (s : State) :
    (deliver c e s).presented = s.presented := rfl
@[simp] theorem deliver_response (c : EventClass) (e : PortEvent) (s : State) :
    (deliver c e s).response = s.response := rfl
@[simp] theorem deliver_hostByte (c : EventClass) (e : PortEvent) (s : State) :
    (deliver c e s).hostByte = s.hostByte := rfl
@[simp] theorem deliver_trace (c : EventClass) (e : PortEvent) (s : State) : (deliver c e s).trace = s.trace := rfl
@[simp] theorem deliver_faults (c : EventClass) (e : PortEvent) (s : State) : (deliver c e s).faults = s.faults := rfl
@[simp] theorem deliver_hostScript (c : EventClass) (e : PortEvent) (s : State) :
    (deliver c e s).hostScript = s.hostScript := rfl
@[simp] theorem deliver_portScript (c : EventClass) (e : PortEvent) (s : State) :
    (deliver c e s).portScript = s.portScript := rfl
@[simp] theorem deliver_schedule (c : EventClass) (e : PortEvent) (s : State) :
    (deliver c e s).schedule = s.schedule := rfl
@[simp] theorem deliver_draws (c : EventClass) (e : PortEvent) (s : State) : (deliver c e s).draws = s.draws := rfl

end Sys2Proof.Machine
end

