-- ==== Sys2Proof/Laws/Ops.lean ====
section
/-!
SUPPORT. One lemma per shared operation, saying everything it can answer; callers cite it and do not unfold the
operation.
-/

namespace Sys2Proof.Machine

/-- A fault set after one more fault: what was in it and that fault. -/
theorem mem_recordFault {f g : Fault} {l : List Fault} : g ∈ recordFault f l ↔ g ∈ l ∨ g = f := by
  unfold recordFault
  split
  · next h => exact ⟨.inl, fun k => k.elim id (fun e => by simpa [e] using h)⟩
  · simp

/-- A fault set with a fault recorded is not empty. -/
theorem recordFault_ne_nil (f : Fault) (l : List Fault) : recordFault f l ≠ [] := fun h => by
  have : f ∈ recordFault f l := mem_recordFault.mpr (.inr rfl)
  simp [h] at this

/-- The interlock (R90): either the command was held and nothing changed, or the port was idle. -/
theorem interlock_next {s t u : State} (h : interlock s u = .next t) :
    (busy s = true ∧ t = s) ∨ (busy s = false ∧ t = u) := by
  unfold interlock at h
  cases hb : busy s <;> rw [hb] at h <;> cases h
  · exact .inr ⟨rfl, rfl⟩
  · exact .inl ⟨rfl, rfl⟩

theorem interlock_idle {s u : State} (h : busy s = false) : interlock s u = .next u := by
  simp [interlock, h]

theorem interlock_held {s u : State} (h : busy s = true) : interlock s u = .next s := by
  simp [interlock, h]

/-- The state a transaction starts from (R92, R55). -/
def started (a : Byte) (wp : Nat) (wc : Nat) (rp : Nat) (rc : Nat) (s : State) : State :=
  ctrlWrite .start
    { accept none s with
      ta := a, wptr := wp, wcnt := wc, rptr := rp, rcnt := rc, outcome := .busy
      borrow := some { wbase := wp, wlen := wc, rbase := rp, rlen := rc } }

/-- Acceptance (R92): a fault recorded, or the transaction started on an armed port with both regions inside the address
space. -/
theorem startTransaction_cases (a : Byte) (wp : Nat) (wc : Nat) (rp : Nat) (rc : Nat) (s : State) :
    (∃ f, (f = .notInitialized ∧ s.ctrl.en = false ∨ f = .bufferWrap ∧ s.ctrl.en = true) ∧
      startTransaction a wp wc rp rc s = rejectCommand f s) ∨
    (s.ctrl.en = true ∧ regionWraps s.params.addrW wp wc = false ∧ regionWraps s.params.addrW rp rc = false ∧
      startTransaction a wp wc rp rc s = started a wp wc rp rc s) := by
  unfold startTransaction
  cases he : s.ctrl.en
  · exact .inl ⟨.notInitialized, .inl ⟨rfl, rfl⟩, rfl⟩
  · cases hw : regionWraps s.params.addrW wp wc <;> cases hr : regionWraps s.params.addrW rp rc
    · exact .inr ⟨rfl, rfl, rfl, rfl⟩
    all_goals exact .inl ⟨.bufferWrap, .inr ⟨rfl, rfl⟩, rfl⟩

theorem startTransaction_armed {a : Byte} {wp rp : Nat} {wc rc : Nat} {s : State} (he : s.ctrl.en = true)
    (hw : regionWraps s.params.addrW wp wc = false) (hr : regionWraps s.params.addrW rp rc = false) :
    startTransaction a wp wc rp rc s = started a wp wc rp rc s := by
  simp [startTransaction, he, hw, hr, started]

/-- Event entry (R110): either the line was low and nothing changed, or the body ran. -/
theorem takeEvent_next {s t u : State} (h : takeEvent s u = .next t) :
    (eventEnabled s = false ∧ t = s) ∨ (eventEnabled s = true ∧ t = u) := by
  unfold takeEvent at h
  cases hb : eventEnabled s <;> rw [hb] at h <;> cases h
  · exact .inl ⟨rfl, rfl⟩
  · exact .inr ⟨rfl, rfl⟩

theorem takeEvent_enabled {s u : State} (h : eventEnabled s = true) : takeEvent s u = .next u := by
  simp [takeEvent, h]

theorem takeEvent_disabled {s u : State} (h : eventEnabled s = false) : takeEvent s u = .next s := by
  simp [takeEvent, h]

/-- `eventEnabled` is the two bits of R110. -/
theorem eventEnabled_iff {s : State} : eventEnabled s = true ↔ s.ctrl.iflag = true ∧ s.ctrl.ie = true := by
  simp [eventEnabled]

/-- `TxAdvance` (R117): the three arms, in order. -/
theorem txAdvance_cases (s : State) :
    (s.wcnt ≠ 0 ∧ txAdvance s = ctrlWrite .next (sendNextByte s)) ∨
    (s.wcnt = 0 ∧ s.rcnt ≠ 0 ∧ txAdvance s = ctrlWrite .start { s with ta := flipDirection s.ta }) ∨
    (s.wcnt = 0 ∧ s.rcnt = 0 ∧ txAdvance s = finishSuccess s) := by
  unfold txAdvance
  by_cases hw : s.wcnt = 0 <;> by_cases hr : s.rcnt = 0 <;> simp [hw, hr]

/-- `ArmReceive` (R119) is a control write of one of two words. -/
theorem armReceive_cases (s : State) :
    (1 < s.rcnt ∧ armReceive s = ctrlWrite .nextAck s) ∨
    (s.rcnt ≤ 1 ∧ armReceive s = ctrlWrite .next s) := by
  unfold armReceive
  by_cases h : 1 < s.rcnt
  · simp [h]
  · simp [h]; omega

/-- `StoreReceived` (R122): a fault recorded for want of room, or the byte stored and the step gone on. -/
theorem storeReceived_cases (d : Byte) (s : State) (rest : State → State) :
    (s.rcnt = 0 ∧ storeReceived d s rest = raise .cursorUnderflow s) ∨
    (s.rcnt ≠ 0 ∧ storeReceived d s rest = rest (storeByte d s)) := by
  by_cases h : s.rcnt = 0 <;> simp [storeReceived, h]

theorem storeReceived_room {d : Byte} {s : State} {rest : State → State} (h : s.rcnt ≠ 0) :
    storeReceived d s rest = rest (storeByte d s) := by simp [storeReceived, h]

/-- No borrow forbids the access (R55): nothing is lent, or what is lent allows it. -/
theorem lentOut_false {f : Borrow → Bool} {s : State} :
    lentOut f s = false ↔ ∀ b, s.borrow = some b → f b = false := by
  unfold lentOut
  cases s.borrow <;> simp

/-- A host load (R55): a fault recorded, or the byte read outside the lent read region. -/
theorem hostLoad_next {a : Nat} {s t : State} (h : hostLoad a s = .next t) :
    a < 2 ^ s.params.addrW ∧
      (t = raise .borrowViolation s ∨
        (∀ b, s.borrow = some b → b.forbidsLoad a = false) ∧ t = { s with hostByte := some (memRead s a) }) := by
  unfold hostLoad at h
  split at h
  · cases h
  · next he =>
    refine ⟨by simpa [addrExists] using he, ?_⟩
    split at h
    · cases h; exact .inl rfl
    · next hb =>
      exact .inr ⟨lentOut_false.mp (by simpa using hb), by cases h; rfl⟩

/-- A host store (R55): a fault recorded, or the byte written outside both lent regions. -/
theorem hostStore_next {a : Nat} {v : Byte} {s t : State} (h : hostStore a v s = .next t) :
    a < 2 ^ s.params.addrW ∧
      (t = raise .borrowViolation s ∨
        (∀ b, s.borrow = some b → b.forbidsStore a = false) ∧ t = memWrite a v s) := by
  unfold hostStore at h
  split at h
  · cases h
  · next he =>
    refine ⟨by simpa [addrExists] using he, ?_⟩
    split at h
    · cases h; exact .inl rfl
    · next hb =>
      exact .inr ⟨lentOut_false.mp (by simpa using hb), by cases h; rfl⟩

/-- Where the next event comes from (R144). -/
theorem nextEvent_state (s : State) :
    ∃ (e : PortEvent) (ps : List PortEvent) (n : Nat), nextEvent s = (e, { s with portScript := ps, draws := n }) := by
  unfold nextEvent
  split
  · next e r _ => exact ⟨e, r, s.draws, rfl⟩
  · next hs => exact ⟨_, [], s.draws + 1, by rw [← hs]⟩

/-- The port's step (R144): nothing, or one event delivered to a state that differs only in what the event was drawn
from. -/
theorem portStep_cases (c : Byte → EventClass) (s : State) :
    (portEnabled s = false ∧ portStep c s = s) ∨
    (portEnabled s = true ∧ ∃ (e : PortEvent) (ps : List PortEvent) (n : Nat),
      portStep c s = deliver (c e.status) e { s with portScript := ps, draws := n }) := by
  unfold portStep
  split
  · next he =>
    obtain ⟨e, ps, n, h⟩ := nextEvent_state s
    exact .inr ⟨he, e, ps, n, by rw [h]⟩
  · next he => exact .inl ⟨by simpa using he, rfl⟩

/-- Whose turn it is: the agent is taken from data that nothing else of the state depends on. -/
theorem nextAgent_state (s : State) :
    ∃ (sch : List Agent) (n : Nat), (nextAgent s).2 = { s with schedule := sch, draws := n } := by
  unfold nextAgent
  split
  · next a r _ => exact ⟨r, s.draws, rfl⟩
  · next hs => exact ⟨[], s.draws + 1, by rw [← hs]⟩

theorem nextAgent_cons {s : State} {a : Agent} {r : List Agent} (h : s.schedule = a :: r) :
    nextAgent s = (a, { s with schedule := r }) := by
  simp [nextAgent, h]

end Sys2Proof.Machine
end

