-- ==== Sys2Proof/Laws/Exec.lean ====
section
/-!
SUPPORT. Once and for all what an instruction can do when it answers a next state, and what a step can do.
-/

namespace Sys2Proof.Machine

open Sys2Proof.Safety

/-- The five operands a transaction command gives `StartTransaction` (R93 to R95). -/
def startOperands : Instr → Option (Byte × Nat × Nat × Nat × Nat)
  | .write addr7 buf len => some (addrByte addr7 0#1, buf, len, 0, 0)
  | .read addr7 buf len => some (addrByte addr7 1#1, 0, 0, buf, len)
  | .writeRead addr7 buf wlen rlen => some (addrByte addr7 0#1, buf, wlen, buf, rlen)
  | _ => none

/-- Every way `exec i s` answers a next state. -/
inductive Effect (i : Instr) (s : State) : State → Prop
  /-- Held, or no event to service. -/
  | unchanged (hq : isTransaction i = true ∧ busy s = true ∨ i.format = .evt ∧ eventEnabled s = false) : Effect i s s
  /-- A command that recorded a fault: INIT in flight (R91), or a transaction command on an idle port (R92). -/
  | rejected (f : Fault)
      (hi : (∃ div pre, i = .init div pre) ∧ f = .initWhileBusy ∧ busy s = true ∨
        isTransaction i = true ∧ busy s = false ∧
          (f = .notInitialized ∧ s.ctrl.en = false ∨ f = .bufferWrap ∧ s.ctrl.en = true)) :
      Effect i s (rejectCommand f s)
  /-- INIT on an idle block (R91). -/
  | armed (div pre : Nat) (hi : i = .init div pre) (idle : busy s = false) :
      Effect i s (ctrlWrite .arm
        { accept none s with wptr := 0, wcnt := 0, rptr := 0, rcnt := 0, clkdiv := div, clkpre := pre })
  /-- A transaction accepted (R92). -/
  | accepted (a : Byte) (wp : Nat) (wc : Nat) (rp : Nat) (rc : Nat) (hi : isTransaction i = true)
      (ho : startOperands i = some (a, wp, wc, rp, rc)) (idle : busy s = false) (en : s.ctrl.en = true)
      (hw : regionWraps s.params.addrW wp wc = false) (hr : regionWraps s.params.addrW rp rc = false) :
      Effect i s (started a wp wc rp rc s)
  /-- ISBUSY (R96). -/
  | polled (hi : i = .isBusy) : Effect i s (observeIdle (accept (some (busyBit s)) s))
  /-- GETSTATUS (R97). -/
  | answered (b : BitVec 1) (n : Nat) (hi : i = .getStatus) : Effect i s { accept (some b) s with draws := n }
  /-- The address byte was loaded (R113, R114). -/
  | addressed (hi : isStartEvent i = true) (en : eventEnabled s = true) : Effect i s (sendAddress s)
  /-- `TxAdvance` (R115, R116). -/
  | advanced (hi : isTransmitEvent i = true) (en : eventEnabled s = true) : Effect i s (txAdvance s)
  /-- `ArmReceive` (R118). -/
  | armedReceive (b : Byte) (hi : i = .slarAck b) (en : eventEnabled s = true) : Effect i s (armReceive s)
  /-- A byte came in with no room left (R122). -/
  | underflowed (hi : isReceiveEvent i = true) (en : eventEnabled s = true) (full : s.rcnt = 0) :
      Effect i s (raise .cursorUnderflow s)
  /-- A byte was stored and the next one armed (R120). -/
  | stored (b : Byte) (hi : i = .rxdataAck b) (en : eventEnabled s = true) (room : s.rcnt ≠ 0) :
      Effect i s (armReceive (storeByte s.data s))
  /-- The last byte was stored (R121). -/
  | storedLast (b : Byte) (hi : i = .rxdataNack b) (en : eventEnabled s = true) (room : s.rcnt ≠ 0) :
      Effect i s (finishSuccess (storeByte s.data s))
  /-- Arbitration lost, START again (R123). -/
  | retried (b : Byte) (hi : i = .arbLost b) (en : eventEnabled s = true) : Effect i s (ctrlWrite .start s)
  /-- The error path (R124). -/
  | failed (b : Byte) (hi : isOtherEvent i = true) (hb : ∀ p, encode p i = .event b) (en : eventEnabled s = true) :
      Effect i s (endWithError b s)
  /-- A control word (R141). -/
  | wrote (w : CtlWord) (hi : i.format = .ctl) : Effect i s (ctrlWrite w s)

theorem effect_of_start {i : Instr} {a : Byte} {wp rp : Nat} {wc rc : Nat} {s t : State} (hi : isTransaction i = true)
    (ho : startOperands i = some (a, wp, wc, rp, rc))
    (h : interlock s (startTransaction a wp wc rp rc s) = .next t) : Effect i s t := by
  obtain ⟨hb, rfl⟩ | ⟨idle, rfl⟩ := interlock_next h
  · exact .unchanged (.inl ⟨hi, hb⟩)
  · obtain ⟨f, hf, e⟩ | ⟨en, hw, hr, e⟩ := startTransaction_cases a wp wc rp rc s
    · rw [e]; exact .rejected f (.inr ⟨hi, idle, hf⟩)
    · rw [e]; exact .accepted a wp wc rp rc hi ho idle en hw hr

theorem effect_of_event {i : Instr} {s t u : State} (hi : i.format = .evt) (h : takeEvent s u = .next t)
    (hu : eventEnabled s = true → Effect i s u) : Effect i s t := by
  obtain ⟨hq, rfl⟩ | ⟨en, rfl⟩ := takeEvent_next h
  · exact .unchanged (.inr ⟨hi, hq⟩)
  · exact hu en

theorem effect_of_receive {i : Instr} {s : State} {rest : State → State} (hi : isReceiveEvent i = true)
    (en : eventEnabled s = true) (hs : s.rcnt ≠ 0 → Effect i s (rest (storeByte s.data s))) :
    Effect i s (storeReceived (dataRead s) s rest) := by
  obtain ⟨full, e⟩ | ⟨room, e⟩ := storeReceived_cases (dataRead s) s rest
  · rw [e]; exact .underflowed hi en full
  · rw [e]; exact hs room

theorem format_of_isTransaction {i : Instr} (h : isTransaction i = true) : i.format = .cmd := by
  cases i <;> first | rfl | cases h

theorem format_of_isStartEvent {i : Instr} (h : isStartEvent i = true) : i.format = .evt := by
  cases i <;> first | rfl | cases h

theorem format_of_isTransmitEvent {i : Instr} (h : isTransmitEvent i = true) : i.format = .evt := by
  cases i <;> first | rfl | cases h

theorem format_of_isOtherEvent {i : Instr} (h : isOtherEvent i = true) : i.format = .evt := by
  cases i <;> first | rfl | cases h

/-- The inversion lemma of `exec`. -/
theorem exec_effect {i : Instr} {s t : State} (h : exec i s = .next t) : Effect i s t := by
  cases i with
  | init div pre =>
    simp only [exec, execInit] at h
    cases hb : busy s <;> rw [hb] at h <;> cases h
    · exact .armed div pre rfl hb
    · exact .rejected .initWhileBusy (.inl ⟨⟨div, pre, rfl⟩, rfl, hb⟩)
  | write addr7 buf len => exact effect_of_start rfl rfl h
  | read addr7 buf len => exact effect_of_start rfl rfl h
  | writeRead addr7 buf wlen rlen => exact effect_of_start rfl rfl h
  | isBusy => simp only [exec, execIsBusy] at h; cases h; exact .polled rfl
  | getStatus =>
    simp only [exec, execGetStatus] at h
    split at h <;> cases h
    · exact .answered 0#1 s.draws rfl
    · exact .answered 1#1 s.draws rfl
    · exact .answered _ _ rfl
  | reservedOp6 rest => cases h
  | reservedOp7 rest => cases h
  | startSent b => exact effect_of_event rfl h (.addressed rfl)
  | repStartSent b => exact effect_of_event rfl h (.addressed rfl)
  | slawAck b => exact effect_of_event rfl h (.advanced rfl)
  | txdataAck b => exact effect_of_event rfl h (.advanced rfl)
  | arbLost b => exact effect_of_event rfl h (.retried b rfl)
  | slarAck b => exact effect_of_event rfl h (.armedReceive b rfl)
  | rxdataAck b => exact effect_of_event rfl h (fun en => effect_of_receive rfl en (.stored b rfl en))
  | rxdataNack b => exact effect_of_event rfl h (fun en => effect_of_receive rfl en (.storedLast b rfl en))
  | otherSlawNack b => exact effect_of_event rfl h (.failed b rfl (fun _ => rfl))
  | otherTxdataNack b => exact effect_of_event rfl h (.failed b rfl (fun _ => rfl))
  | otherSlarNack b => exact effect_of_event rfl h (.failed b rfl (fun _ => rfl))
  | otherBusError b => exact effect_of_event rfl h (.failed b rfl (fun _ => rfl))
  | otherNoState b => exact effect_of_event rfl h (.failed b rfl (fun _ => rfl))
  | other b => exact effect_of_event rfl h (.failed b rfl (fun _ => rfl))
  | cwArm => simp only [exec, execCwArm] at h; cases h; exact .wrote .arm rfl
  | cwStart => simp only [exec, execCwStart] at h; cases h; exact .wrote .start rfl
  | cwNext => simp only [exec, execCwNext] at h; cases h; exact .wrote .next rfl
  | cwNextAck => simp only [exec, execCwNextAck] at h; cases h; exact .wrote .nextAck rfl
  | cwStop => simp only [exec, execCwStop] at h; cases h; exact .wrote .stop rfl
  | cwHold => simp only [exec, execCwHold] at h; cases h; exact .wrote .hold rfl

/-- A decoded event is of format EVT. -/
theorem format_decodeEventWith (c : Byte → EventClass) (b : Byte) : (decodeEventWith c b).format = .evt := by
  unfold decodeEventWith
  split <;> try rfl
  unfold otherRow
  repeat' (split; rfl)
  rfl

/-- A decoded event is spelled by the byte it was decoded from. -/
theorem encode_decodeEventWith (p : Params) (c : Byte → EventClass) (b : Byte) :
    encode p (decodeEventWith c b) = .event b := by
  unfold decodeEventWith
  split <;> try rfl
  unfold otherRow
  repeat' (split; rfl)
  rfl

theorem isOtherEvent_otherRow (b : Byte) : isOtherEvent (otherRow b) = true := by
  unfold otherRow
  repeat' (split; rfl)
  rfl

/-- The group a decoded event belongs to says its class. -/
theorem class_of_decodeEventWith (c : Byte → EventClass) (b : Byte) :
    (isStartEvent (decodeEventWith c b) = true ↔ c b = .startSent ∨ c b = .repStartSent) ∧
    (isTransmitEvent (decodeEventWith c b) = true ↔ c b = .slawAck ∨ c b = .txdataAck) ∧
    (isOtherEvent (decodeEventWith c b) = true ↔ c b = .other) ∧
    (∀ x, decodeEventWith c b = .slarAck x → c b = .slarAck) ∧
    (∀ x, decodeEventWith c b = .rxdataAck x → c b = .rxdataAck) ∧
    (∀ x, decodeEventWith c b = .rxdataNack x → c b = .rxdataNack) ∧
    (∀ x, decodeEventWith c b = .arbLost x → c b = .arbLost) := by
  have other := isOtherEvent_otherRow b
  unfold decodeEventWith
  cases c b <;> simp [isStartEvent, isTransmitEvent, isOtherEvent]
  generalize otherRow b = i at other
  cases i <;> simp_all [isOtherEvent]

/-- A decoded descriptor is of format CMD. -/
theorem format_decodeCommand {p : Params} {d : Nat} {i : Instr} (h : decodeCommand p d = .ok i) :
    i.format = .cmd := by
  obtain ⟨-, rfl⟩ | ⟨-, rfl⟩ | ⟨-, ⟨-, -, rfl⟩ | ⟨-, -, rfl⟩ | ⟨-, -, rfl⟩ | ⟨-, h⟩⟩ :=
    decodeOp_ok (decodeCommand_ok h).2
  · rfl
  · rfl
  · rfl
  · rfl
  · rfl
  · obtain ⟨-, -, ⟨-, rfl⟩ | ⟨-, ⟨-, rfl⟩ | ⟨-, -, rfl⟩⟩⟩ := decodeTransaction_ok h <;> rfl

/-- A decoded transaction's operands fit their widths (R71, R92). -/
theorem startOperands_lt {p : Params} {d : Nat} {i : Instr} (h : decodeCommand p d = .ok i) {a : Byte}
    {wp wc rp rc : Nat} (ho : startOperands i = some (a, wp, wc, rp, rc)) :
    wp < 2 ^ p.addrW ∧ wc < 2 ^ p.cntW ∧ rp < 2 ^ p.addrW ∧ rc < 2 ^ p.cntW := by
  obtain ⟨-, rfl⟩ | ⟨-, rfl⟩ | ⟨-, ⟨-, -, rfl⟩ | ⟨-, -, rfl⟩ | ⟨-, -, rfl⟩ | ⟨-, h⟩⟩ :=
    decodeOp_ok (decodeCommand_ok h).2
  · cases ho
  · cases ho
  · cases ho
  · cases ho
  · cases ho
  · have z := Nat.two_pow_pos
    obtain ⟨-, -, ⟨-, rfl⟩ | ⟨-, ⟨-, rfl⟩ | ⟨-, -, rfl⟩⟩⟩ := decodeTransaction_ok h <;> cases ho
    · exact ⟨bitField_lt .., bitField_lt .., bitField_lt .., bitField_lt ..⟩
    · exact ⟨bitField_lt .., bitField_lt .., z _, z _⟩
    · exact ⟨z _, z _, bitField_lt .., bitField_lt ..⟩

/-- A decoded INIT's operands fit their widths (R71, R91). -/
theorem initOperands_lt {p : Params} {d div pre : Nat} (h : decodeCommand p d = .ok (.init div pre)) :
    div < 2 ^ p.divW ∧ pre < 2 ^ p.preW := by
  obtain ⟨-, e⟩ | ⟨-, e⟩ | ⟨-, ⟨-, -, e⟩ | ⟨-, -, e⟩ | ⟨-, -, e⟩ | ⟨-, h⟩⟩ :=
    decodeOp_ok (decodeCommand_ok h).2
  · cases e
  · cases e
  · cases e; exact ⟨bitField_lt .., bitField_lt ..⟩
  · cases e
  · cases e
  · obtain ⟨-, -, ⟨-, e⟩ | ⟨-, ⟨-, e⟩ | ⟨-, -, e⟩⟩⟩ := decodeTransaction_ok h <;> cases e

/-- Every way a step answers a next state: one agent acts on the state with the turn (and the script's action) taken. -/
inductive StepEffect (c : Byte → EventClass) (s : State) : State → Prop
  /-- The host ran a descriptor that spells the command `i`. -/
  | command (sch : List Agent) (n : Nat) (d : Nat) (hs : List HostAction) (i : Instr) (t : State)
      (hd : decodeCommand s.params d = .ok i)
      (hp : s.presented = some d ∧ hs = s.hostScript ∨ s.presented = none ∧ s.hostScript = .command d :: hs)
      (he : Effect i { s with schedule := sch, draws := n, presented := some d, hostScript := hs } t) :
      StepEffect c s t
  /-- The host had nothing to do. -/
  | idle (sch : List Agent) (n : Nat) : StepEffect c s { s with schedule := sch, draws := n }
  /-- The host touched a byte it has lent (R55). -/
  | violated (sch : List Agent) (n : Nat) (hs : List HostAction) (x : HostAction) (hp : s.presented = none)
      (hr : s.hostScript = x :: hs) :
      StepEffect c s (raise .borrowViolation { s with schedule := sch, draws := n, hostScript := hs })
  /-- The host read a byte it may read. -/
  | load (sch : List Agent) (n : Nat) (hs : List HostAction) (a : Nat) (hp : s.presented = none)
      (hr : s.hostScript = .load a :: hs) (ha : a < 2 ^ s.params.addrW)
      (hb : ∀ b, s.borrow = some b → b.forbidsLoad a = false) :
      StepEffect c s { s with schedule := sch, draws := n, hostScript := hs, hostByte := some (memRead s a) }
  /-- The host wrote a byte it may write. -/
  | store (sch : List Agent) (n : Nat) (hs : List HostAction) (a : Nat) (v : Byte) (hp : s.presented = none)
      (hr : s.hostScript = .store a v :: hs) (ha : a < 2 ^ s.params.addrW)
      (hb : ∀ b, s.borrow = some b → b.forbidsStore a = false) :
      StepEffect c s (memWrite a v { s with schedule := sch, draws := n, hostScript := hs })
  /-- The sequencer ran the event in STATUS. -/
  | event (sch : List Agent) (n : Nat) (t : State)
      (he : Effect (decodeEventWith c s.status) { s with schedule := sch, draws := n } t) : StepEffect c s t
  /-- The port delivered an event. -/
  | delivered (sch : List Agent) (ps : List PortEvent) (n : Nat) (e : PortEvent) (hp : portEnabled s = true) :
      StepEffect c s (deliver (c e.status) e { s with schedule := sch, draws := n, portScript := ps })

theorem runDescriptor_next {d : Nat} {s t : State} (h : runDescriptor d s = .next t) :
    ∃ i, decodeCommand s.params d = .ok i ∧ exec i s = .next t := by
  unfold runDescriptor at h
  split at h
  · next i hd => exact ⟨i, hd, h⟩
  · cases h

/-- The inversion lemma of the step, for every classifier. -/
theorem stepWith_effect {c : Byte → EventClass} {s t : State} (h : stepWith c s = .next t) : StepEffect c s t := by
  obtain ⟨sch, n, hs'⟩ := nextAgent_state s
  unfold stepWith at h
  rw [show (nextAgent s) = ((nextAgent s).1, (nextAgent s).2) from rfl, hs'] at h
  dsimp only at h
  cases ha : (nextAgent s).1 with
  | host =>
    rw [ha] at h
    simp only [agentStep, hostStep] at h
    split at h
    · next d hp =>
      obtain ⟨i, hd, he⟩ := runDescriptor_next h
      have hp' : s.presented = some d := hp
      refine .command sch n d s.hostScript i t hd (.inl ⟨hp', rfl⟩) ?_
      have := exec_effect he
      rw [← hp']; exact this
    · next hp =>
      split at h
      · cases h; exact .idle sch n
      · next d r hr =>
        obtain ⟨i, hd, he⟩ := runDescriptor_next h
        exact .command sch n d r i t hd (.inr ⟨hp, hr⟩) (exec_effect he)
      · next a r hr =>
        obtain ⟨hx, rfl | ⟨hb, rfl⟩⟩ := hostLoad_next h
        · exact .violated sch n r _ hp hr
        · exact .load sch n r a hp hr hx hb
      · next a v r hr =>
        obtain ⟨hx, rfl | ⟨hb, rfl⟩⟩ := hostStore_next h
        · exact .violated sch n r _ hp hr
        · exact .store sch n r a v hp hr hx hb
  | sequencer =>
    rw [ha] at h
    exact .event sch n t (exec_effect (show exec _ _ = .next t from h))
  | port =>
    rw [ha] at h
    simp only [agentStep] at h
    obtain ⟨-, hq⟩ | ⟨hp, e, ps, m, hq⟩ := portStep_cases c { s with schedule := sch, draws := n }
    · rw [hq] at h; cases h; exact .idle sch n
    · rw [hq] at h; cases h; exact .delivered sch ps m e hp

end Sys2Proof.Machine
end

