-- ==== Sys2Proof/Laws/Memory.lean ====
section
/-!
SUPPORT. Buffer memory: a read after a write to the same address gives the byte written, a write leaves every other
address alone, and every memory operation keeps the canonical form.
-/

namespace Sys2Proof.Machine

theorem memGet_memPut_same (m : Memory) (a : Nat) (v : Byte) : memGet (memPut m a v) a = some v := by
  induction m with
  | nil => simp [memPut, memGet]
  | cons c m ih =>
    obtain ⟨b, u⟩ := c
    by_cases h : a < b
    · simp [memPut, memGet, h]
    · by_cases e : a = b <;> simp [memPut, memGet, h, e, ih]

theorem memGet_memPut_other (m : Memory) {a x : Nat} (v : Byte) (hx : x ≠ a) :
    memGet (memPut m a v) x = memGet m x := by
  induction m with
  | nil => simp [memPut, memGet, hx]
  | cons c m ih =>
    obtain ⟨b, u⟩ := c
    by_cases h : a < b
    · simp [memPut, memGet, h, hx]
    · by_cases e : a = b
      · subst e; simp [memPut, memGet, hx]
      · by_cases k : x = b <;> simp [memPut, memGet, h, e, k, ih]

/-- A byte of buffer memory read back after a write. -/
theorem memRead_memWrite (a x : Nat) (v : Byte) (s : State) :
    memRead (memWrite a v s) x = if x = a then v else memRead s x := by
  by_cases h : x = a
  · subst h; simp [memRead, memWrite, memGet_memPut_same]
  · simp [memRead, memWrite, memGet_memPut_other _ _ h, h]

theorem risingFrom_mono {lo lo' : Nat} (h : lo' ≤ lo) (m : Memory) (hm : risingFrom lo m = true) :
    risingFrom lo' m = true := by
  cases m with
  | nil => rfl
  | cons c m =>
    simp only [risingFrom, Bool.and_eq_true, decide_eq_true_eq] at hm ⊢
    exact ⟨h.trans hm.1, hm.2⟩

theorem risingFrom_memPut {lo a : Nat} (m : Memory) (v : Byte) (ha : lo ≤ a) (hm : risingFrom lo m = true) :
    risingFrom lo (memPut m a v) = true := by
  induction m generalizing lo with
  | nil => simp [memPut, risingFrom, ha]
  | cons c m ih =>
    obtain ⟨b, u⟩ := c
    simp only [risingFrom, Bool.and_eq_true, decide_eq_true_eq] at hm
    by_cases h : a < b
    · simp [memPut, h, risingFrom, ha, hm.2]
    · by_cases e : a = b
      · simp [memPut, risingFrom, e, hm.1, hm.2]
      · simp only [memPut, h, e, if_false, risingFrom, Bool.and_eq_true, decide_eq_true_eq]
        exact ⟨hm.1, ih (by omega) hm.2⟩

/-- What is listed after a write was listed before or is the byte written. -/
theorem mem_memPut {m : Memory} {a x : Nat} {v u : Byte} (h : (x, u) ∈ memPut m a v) : x = a ∨ (x, u) ∈ m := by
  induction m with
  | nil =>
    rw [memPut, List.mem_singleton] at h
    exact .inl (Prod.mk.inj h).1
  | cons c m ih =>
    obtain ⟨b, w⟩ := c
    by_cases lt : a < b
    · rw [memPut, if_pos lt] at h
      rcases List.mem_cons.mp h with e | e
      · exact .inl (Prod.mk.inj e).1
      · exact .inr e
    · by_cases e : a = b
      · rw [memPut, if_neg lt, if_pos e] at h
        rcases List.mem_cons.mp h with k | k
        · exact .inl (Prod.mk.inj k).1
        · exact .inr (List.mem_cons_of_mem _ k)
      · rw [memPut, if_neg lt, if_neg e] at h
        rcases List.mem_cons.mp h with k | k
        · exact .inr (k ▸ List.mem_cons_self)
        · rcases ih k with q | q
          · exact .inl q
          · exact .inr (List.mem_cons_of_mem _ q)

/-- Writing a byte keeps the canonical form. -/
theorem wf_memPut (m : Memory) (a : Nat) (v : Byte) (hm : Memory.wf m = true) : Memory.wf (memPut m a v) = true :=
  risingFrom_memPut m v (Nat.zero_le _) hm

theorem wf_memWrite (a : Nat) (v : Byte) (s : State) (h : Memory.wf s.mem = true) :
    Memory.wf (memWrite a v s).mem = true := wf_memPut s.mem a v h

theorem wf_storeByte (d : Byte) (s : State) (h : Memory.wf s.mem = true) :
    Memory.wf (storeByte d s).mem = true := wf_memPut s.mem s.rptr d h

theorem wf_reset : Memory.wf State.reset.mem = true := rfl

end Sys2Proof.Machine
end

