-- ==== Sys2Proof/Laws/PerInstr.lean ====
section
/-!
SUPPORT. A statement about every instruction as syntax, one lemma per constructor: the word a well-formed instruction is
spelled with meets the match and mask of its own row of spec/opcode_table.json.
-/

namespace Sys2Proof.Laws

/-- `match` and `mask` of an instruction's row in opcode_table.json. -/
def tableRow : Instr → Nat × Nat
  | .init _ _ => (0x000000000000, 0xFFFFFFFC00FF)
  | .write _ _ _ => (0x000000000001, 0x0000FF0080FF)
  | .read _ _ _ => (0x000000000002, 0x0000FF0080FF)
  | .writeRead _ _ _ _ => (0x000000000003, 0x0000000080FF)
  | .isBusy => (0x000000000004, 0xFFFFFFFFFFFF)
  | .getStatus => (0x000000000005, 0xFFFFFFFFFFFF)
  | .reservedOp6 _ => (0x000000000006, 0x000000000007)
  | .reservedOp7 _ => (0x000000000007, 0x000000000007)
  | .startSent _ => (0x08, 0xF8)
  | .repStartSent _ => (0x10, 0xF8)
  | .slawAck _ => (0x18, 0xF8)
  | .txdataAck _ => (0x28, 0xF8)
  | .arbLost _ => (0x38, 0xF8)
  | .slarAck _ => (0x40, 0xF8)
  | .rxdataAck _ => (0x50, 0xF8)
  | .rxdataNack _ => (0x58, 0xF8)
  | .otherSlawNack _ => (0x20, 0xF8)
  | .otherTxdataNack _ => (0x30, 0xF8)
  | .otherSlarNack _ => (0x48, 0xF8)
  | .otherBusError _ => (0x00, 0xF8)
  | .otherNoState _ => (0xF8, 0xF8)
  | .other _ => (0x00, 0x00)
  | .cwArm => (0x04, 0xFF)
  | .cwStart => (0xA5, 0xFF)
  | .cwNext => (0x85, 0xFF)
  | .cwNextAck => (0xC5, 0xFF)
  | .cwStop => (0x94, 0xFF)
  | .cwHold => (0x04, 0xFF)

/-- The bits of an encoded instruction as the table numbers them. -/
def wordOf (i : Instr) : Nat :=
  match encode Params.default i with
  | .command d => d
  | .event s => s.toNat
  | .control w => w.toNat

/-- The instruction's word, masked, is its row's match value. -/
def RowMatch.Statement (i : Instr) : Prop := WellFormed i = true → wordOf i &&& (tableRow i).2 = (tableRow i).1

/-- Masking a row of fields masks its lowest field and the rest. -/
theorem and_join {w v m : Nat} (r n : Nat) (hv : v < 2 ^ w) (hm : m < 2 ^ w) :
    (v + 2 ^ w * r) &&& (m + 2 ^ w * n) = (v &&& m) + 2 ^ w * (r &&& n) := by
  apply Nat.eq_of_testBit_eq
  intro k
  have ha : v &&& m < 2 ^ w := lt_of_le_of_lt Nat.and_le_left hv
  rw [Nat.testBit_and, Nat.add_comm v, Nat.add_comm m, Nat.add_comm (v &&& m), Nat.testBit_two_pow_mul_add _ hv,
    Nat.testBit_two_pow_mul_add _ hm, Nat.testBit_two_pow_mul_add _ ha]
  split <;> simp

/-- The transaction layout with `len1` zero, at the default widths. -/
theorem transferWord_row {op len buf : Nat} (addr7 : BitVec 7) (ho : op < 8) (hl : len < 256) :
    packTransaction Params.default op addr7 len 0 buf &&& 0x0000FF0080FF = op &&& 7 := by
  have ha := addr7.isLt
  rw [show (0x0000FF0080FF : Nat) =
    7 + 2 ^ 3 * (31 + 2 ^ 5 * (0 + 2 ^ 7 * (1 + 2 ^ 1 * (0 + 2 ^ 8 * (255 + 2 ^ 8 * 0))))) from rfl]
  simp only [packTransaction, joinFields, Params.default]
  rw [and_join _ _ (by omega) (by decide), and_join _ _ (by decide) (by decide), and_join _ _ (by omega) (by decide),
    and_join _ _ (by decide) (by decide), and_join _ _ (by omega) (by decide), and_join _ _ (by decide) (by decide)]
  simp

/-- The transaction layout, at the default widths. -/
theorem combinedWord_row {op wlen rlen buf : Nat} (addr7 : BitVec 7) (ho : op < 8) :
    packTransaction Params.default op addr7 wlen rlen buf &&& 0x0000000080FF = op &&& 7 := by
  have ha := addr7.isLt
  rw [show (0x0000000080FF : Nat) = 7 + 2 ^ 3 * (31 + 2 ^ 5 * (0 + 2 ^ 7 * (1 + 2 ^ 1 * 0))) from rfl]
  simp only [packTransaction, joinFields, Params.default]
  rw [and_join _ _ (by omega) (by decide), and_join _ _ (by decide) (by decide), and_join _ _ (by omega) (by decide),
    and_join _ _ (by decide) (by decide)]
  simp

/-- A reserved `op` with any rest (R77). -/
theorem reservedWord_row {op : Nat} (rest : Nat) (ho : op < 8) : op + 2 ^ 3 * rest &&& 0x000000000007 = op &&& 7 := by
  rw [show (0x000000000007 : Nat) = 7 + 2 ^ 3 * 0 from rfl, and_join _ _ (by omega) (by decide)]
  simp

theorem RowMatch.init (div pre : Nat) : RowMatch.Statement (.init div pre) := by
  intro h
  have hd : div < 2 ^ 8 := of_decide_eq_true (Bool.and_eq_true_iff.mp h).1
  have hp : pre < 2 ^ 2 := of_decide_eq_true (Bool.and_eq_true_iff.mp h).2
  simp only [wordOf, encode, packInit, joinFields, tableRow, Params.default]
  rw [show (0xFFFFFFFC00FF : Nat) = 7 + 2 ^ 3 * (31 + 2 ^ 5 * (0 + 2 ^ 8 * (0 + 2 ^ 2 * 0x3FFFFFFF))) from rfl,
    and_join _ _ (by decide) (by decide), and_join _ _ (by decide) (by decide), and_join _ _ hd (by decide),
    and_join _ _ hp (by decide)]
  simp

theorem RowMatch.write (addr7 : BitVec 7) (buf len : Nat) : RowMatch.Statement (.write addr7 buf len) := fun h =>
  transferWord_row addr7 (by decide) (of_decide_eq_true (Bool.and_eq_true_iff.mp h).2)

theorem RowMatch.read (addr7 : BitVec 7) (buf len : Nat) : RowMatch.Statement (.read addr7 buf len) := fun h =>
  transferWord_row addr7 (by decide) (of_decide_eq_true (Bool.and_eq_true_iff.mp h).2)

theorem RowMatch.writeRead (addr7 : BitVec 7) (buf wlen rlen : Nat) :
    RowMatch.Statement (.writeRead addr7 buf wlen rlen) :=
  fun _ => combinedWord_row addr7 (by decide)

theorem RowMatch.reservedOp6 (rest : Nat) : RowMatch.Statement (.reservedOp6 rest) :=
  fun _ => reservedWord_row rest (by decide)

theorem RowMatch.reservedOp7 (rest : Nat) : RowMatch.Statement (.reservedOp7 rest) :=
  fun _ => reservedWord_row rest (by decide)

theorem RowMatch.isBusy : RowMatch.Statement .isBusy := fun _ => by decide

theorem RowMatch.getStatus : RowMatch.Statement .getStatus := fun _ => by decide

/-- A status byte whose code is `m` matches the row of `m` with mask 0xF8. -/
theorem match_of_statusCode {s m : Byte} (h : statusCode s = m) : s.toNat &&& 0xF8 = m.toNat := by
  rw [← h]; rfl

/-- What the default table says of a class: its code. -/
theorem statusCode_of_classify (s : Byte) :
    (classify s = .startSent → statusCode s = 0x08#8) ∧ (classify s = .repStartSent → statusCode s = 0x10#8) ∧
    (classify s = .slawAck → statusCode s = 0x18#8) ∧ (classify s = .txdataAck → statusCode s = 0x28#8) ∧
    (classify s = .arbLost → statusCode s = 0x38#8) ∧ (classify s = .slarAck → statusCode s = 0x40#8) ∧
    (classify s = .rxdataAck → statusCode s = 0x50#8) ∧ (classify s = .rxdataNack → statusCode s = 0x58#8) := by
  unfold classify
  refine ⟨?_, ?_, ?_, ?_, ?_, ?_, ?_, ?_⟩ <;> (repeat' split) <;> simp_all

theorem RowMatch.startSent (s : Byte) : RowMatch.Statement (.startSent s) := fun h =>
  match_of_statusCode ((statusCode_of_classify s).1 (by simpa [WellFormed, WellFormedWith] using h))

theorem RowMatch.repStartSent (s : Byte) : RowMatch.Statement (.repStartSent s) := fun h =>
  match_of_statusCode ((statusCode_of_classify s).2.1 (by simpa [WellFormed, WellFormedWith] using h))

theorem RowMatch.slawAck (s : Byte) : RowMatch.Statement (.slawAck s) := fun h =>
  match_of_statusCode ((statusCode_of_classify s).2.2.1 (by simpa [WellFormed, WellFormedWith] using h))

theorem RowMatch.txdataAck (s : Byte) : RowMatch.Statement (.txdataAck s) := fun h =>
  match_of_statusCode ((statusCode_of_classify s).2.2.2.1 (by simpa [WellFormed, WellFormedWith] using h))

theorem RowMatch.arbLost (s : Byte) : RowMatch.Statement (.arbLost s) := fun h =>
  match_of_statusCode ((statusCode_of_classify s).2.2.2.2.1 (by simpa [WellFormed, WellFormedWith] using h))

theorem RowMatch.slarAck (s : Byte) : RowMatch.Statement (.slarAck s) := fun h =>
  match_of_statusCode ((statusCode_of_classify s).2.2.2.2.2.1 (by simpa [WellFormed, WellFormedWith] using h))

theorem RowMatch.rxdataAck (s : Byte) : RowMatch.Statement (.rxdataAck s) := fun h =>
  match_of_statusCode ((statusCode_of_classify s).2.2.2.2.2.2.1 (by simpa [WellFormed, WellFormedWith] using h))

theorem RowMatch.rxdataNack (s : Byte) : RowMatch.Statement (.rxdataNack s) := fun h =>
  match_of_statusCode ((statusCode_of_classify s).2.2.2.2.2.2.2 (by simpa [WellFormed, WellFormedWith] using h))

theorem RowMatch.otherSlawNack (s : Byte) : RowMatch.Statement (.otherSlawNack s) := fun h =>
  match_of_statusCode (m := 0x20#8) (beq_iff_eq.mp (Bool.and_eq_true_iff.mp h).2)

theorem RowMatch.otherTxdataNack (s : Byte) : RowMatch.Statement (.otherTxdataNack s) := fun h =>
  match_of_statusCode (m := 0x30#8) (beq_iff_eq.mp (Bool.and_eq_true_iff.mp h).2)

theorem RowMatch.otherSlarNack (s : Byte) : RowMatch.Statement (.otherSlarNack s) := fun h =>
  match_of_statusCode (m := 0x48#8) (beq_iff_eq.mp (Bool.and_eq_true_iff.mp h).2)

theorem RowMatch.otherBusError (s : Byte) : RowMatch.Statement (.otherBusError s) := fun h =>
  match_of_statusCode (m := 0x00#8) (beq_iff_eq.mp (Bool.and_eq_true_iff.mp h).2)

theorem RowMatch.otherNoState (s : Byte) : RowMatch.Statement (.otherNoState s) := fun h =>
  match_of_statusCode (m := 0xF8#8) (beq_iff_eq.mp (Bool.and_eq_true_iff.mp h).2)

theorem RowMatch.other (s : Byte) : RowMatch.Statement (.other s) := by
  intro _
  simp [wordOf, encode, tableRow]

theorem RowMatch.cwArm : RowMatch.Statement .cwArm := fun _ => by decide

theorem RowMatch.cwStart : RowMatch.Statement .cwStart := fun _ => by decide

theorem RowMatch.cwNext : RowMatch.Statement .cwNext := fun _ => by decide

theorem RowMatch.cwNextAck : RowMatch.Statement .cwNextAck := fun _ => by decide

theorem RowMatch.cwStop : RowMatch.Statement .cwStop := fun _ => by decide

theorem RowMatch.cwHold : RowMatch.Statement .cwHold := fun _ => by decide

end Sys2Proof.Laws
end

