-- ==== Sys2Proof/Laws/Runs.lean ====
section
/-!
SUPPORT. Runs of several steps and what a trace says after items were appended to it.
-/

namespace Sys2Proof.Safety

open Sys2Proof.Machine

/-- A run is one step, then the rest. -/
theorem runWith_succ {c : Byte → EventClass} {k : Nat} {s t : State} (h : stepWith c s = .next t) :
    runWith c (k + 1) s = runWith c k t := by
  simp [runWith, h]

/-- Two runs, one after the other. -/
theorem runWith_add {c : Byte → EventClass} {j k : Nat} {s t : State} (h : runWith c j s = .next t) :
    runWith c (j + k) s = runWith c k t := by
  induction j generalizing s with
  | zero => cases h; simp
  | succ j ih =>
    rw [Nat.succ_add]
    simp only [runWith] at h ⊢
    split at h
    · exact ih h
    · cases h
    · cases h

theorem projectTrace_append (l m : List PortItem) : projectTrace (l ++ m) = projectTrace l ++ projectTrace m := by
  simp [projectTrace]

theorem controlWords_append (l m : List PortItem) : controlWords (l ++ m) = controlWords l ++ controlWords m := by
  induction l with
  | nil => rfl
  | cons x l ih => cases x <;> simp [controlWords, ih]

end Sys2Proof.Safety
end

