-- ==== Sys2Proof/Tests/Slice0.lean ====
section
/-!
SUPPORT. Tests. Expected values come from spec/95_test_vectors.md (the vector is named) or from the encoding tables of
spec/30_encoding.md, worked by hand. Then one witness per obligation with hypotheses: a concrete state and operands that
meet them together, each clause at a boundary of its range.
-/

namespace Sys2Proof.Tests

open Sys2Proof.Machine Sys2Proof.Safety

/-! ### Helpers -/

/-- The answer is a next state with the property. -/
def nextIs (r : Result) (p : State → Bool) : Bool :=
  match r with
  | .next t => p t
  | _ => false

/-- The answer is this fault. -/
def faultIs (r : Result) (f : Fault) : Bool :=
  match r with
  | .fault g => g = f
  | _ => false

/-- The answer is a next state in which this fault alone is recorded and CTRL, both cursors, the trace and memory are as
before. -/
def records (f : Fault) (r : Result) (s : State) : Bool :=
  nextIs r (fun t => t.faults = [f] && t.ctrl = s.ctrl && t.wptr = s.wptr && t.wcnt = s.wcnt && t.rptr = s.rptr &&
    t.rcnt = s.rcnt && t.trace = s.trace && t.mem = s.mem)

/-- The answer is this refusal. -/
def refusedIs (r : Result) (f : Refusal) : Bool :=
  match r with
  | .refused g => g = f
  | _ => false

/-- A build with 12 address bits, counts of 4 bits, a 6-bit divider and a 3-bit prescaler. -/
def narrow : Params := { addrW := 12, cntW := 4, divW := 6, preW := 3 }

/-- INIT accepted, idle. -/
def idle : State :=
  { State.reset with
    ctrl := { en := true, ie := false, sta := false, sto := false, ea := false, iflag := false }
    trace := [.ctl .arm] }

/-- A transaction in flight with these cursors, its START requested. -/
def flight (ta : Byte) (wptr : Nat) (wcnt : Nat) (rptr : Nat) (rcnt : Nat) : State :=
  { idle with
    ta := ta, wptr := wptr, wcnt := wcnt, rptr := rptr, rcnt := rcnt, outcome := .busy
    ctrl := { en := true, ie := true, sta := true, sto := false, ea := false, iflag := false }
    port := { idle.port with rearmed := true }
    mem := [(0x0100, 0x01), (0x0101, 0x02), (0x0102, 0x03)]
    borrow := some { wbase := wptr, wlen := wcnt, rbase := rptr, rlen := rcnt }
    trace := [.ctl .arm, .ctl .start] }

/-- The same with an event pending. -/
def pending (status data : Byte) (s : State) : State :=
  { s with status := status, data := data, ctrl := { s.ctrl with iflag := true } }

/-- The descriptor presented on the host's turn. -/
def present (d : Nat) (s : State) : State := { s with presented := some d, schedule := [.host] }

/-- The next turn is this agent's. -/
def turn (a : Agent) (s : State) : State := { s with schedule := [a] }

/-- What a CTRL word leaves in CTRL: en, ie, sta, sto, ea, iflag. -/
def ctrlBits (s : State) : List Bool := [s.ctrl.en, s.ctrl.ie, s.ctrl.sta, s.ctrl.sto, s.ctrl.ea, s.ctrl.iflag]

/-! ### WellFormed: each check refuses an ill-formed term -/

/-- An event's operand is a byte of that event's class. -/
theorem test_wf_class_mismatch :
    WellFormed (.startSent 0x10) = false ∧ WellFormed (.repStartSent 0x08) = false ∧
    WellFormed (.slawAck 0x20) = false ∧ WellFormed (.txdataAck 0x30) = false ∧
    WellFormed (.arbLost 0x40) = false ∧ WellFormed (.slarAck 0x48) = false ∧
    WellFormed (.rxdataAck 0x58) = false ∧ WellFormed (.rxdataNack 0x50) = false := by decide

/-- A row of class OTHER takes only bytes of its own code, the catch-all none of theirs and none of another class. -/
theorem test_wf_other_mismatch :
    WellFormed (.otherSlawNack 0x30) = false ∧ WellFormed (.otherTxdataNack 0x20) = false ∧
    WellFormed (.otherSlarNack 0x40) = false ∧ WellFormed (.otherBusError 0x08) = false ∧
    WellFormed (.otherNoState 0xF0) = false ∧ WellFormed (.other 0x20) = false ∧ WellFormed (.other 0x08) = false := by
  decide

/-- A command's operand fits its field (R71), at the default widths and at others. -/
theorem test_wf_operands :
    WellFormed (.init 0x100 0) = false ∧ WellFormed (.init 0 4) = false ∧ WellFormed (.write 0x50 0x10000 0) = false ∧
    WellFormed (.write 0x50 0 0x100) = false ∧ WellFormed (.read 0x50 0x10000 0) = false ∧
    WellFormed (.read 0x50 0 0x100) = false ∧ WellFormed (.writeRead 0x50 0x10000 0 0) = false ∧
    WellFormed (.writeRead 0x50 0 0x100 0) = false ∧ WellFormed (.writeRead 0x50 0 0 0x100) = false ∧
    WellFormed (.reservedOp6 0x200000000000) = false ∧ WellFormed (.reservedOp7 0x200000000000) = false ∧
    WellFormedWith narrow classify (.write 0x50 0x1000 15) = false ∧
    WellFormedWith narrow classify (.write 0x50 0x0FFF 15) = true := by decide

/-- Well-formed terms of every kind pass, at both ends of the low three bits. -/
theorem test_wf_accepts :
    WellFormed (.init 0x48 0) ∧ WellFormed (.startSent 0x08) ∧ WellFormed (.startSent 0x0F) ∧
    WellFormed (.otherNoState 0xFF) ∧ WellFormed (.otherBusError 0x07) ∧ WellFormed (.other 0x60) ∧
    WellFormed .cwHold := by decide

/-! ### Decoding, on words written out from the spec -/

/-- Vectors E6 to E12: command descriptors. -/
theorem test_decode_commands :
    decodeCommand Params.default 0x010000035001 = .ok (.write 0x50 0x0100 3) ∧
    decodeCommand Params.default 0x020000025002 = .ok (.read 0x50 0x0200 2) ∧
    decodeCommand Params.default 0x030002016803 = .ok (.writeRead 0x68 0x0300 1 2) ∧
    decodeCommand Params.default 0x000000004800 = .ok (.init 0x48 0) ∧
    decodeCommand Params.default 0x000000010C00 = .ok (.init 12 1) ∧
    decodeCommand Params.default 0x000000000004 = .ok .isBusy ∧
    decodeCommand Params.default 0x000000000005 = .ok .getStatus ∧
    decodeCommand Params.default 0xFFFF00FF7F02 = .ok (.read 0x7F 0xFFFF 255) := by decide

/-- The same vectors the other way. -/
theorem test_encode_commands :
    encode Params.default (.write 0x50 0x0100 3) = .command 0x010000035001 ∧
    encode Params.default (.read 0x7F 0xFFFF 255) = .command 0xFFFF00FF7F02 ∧
    encode Params.default (.writeRead 0x68 0x0300 1 2) = .command 0x030002016803 ∧
    encode Params.default (.init 12 1) = .command 0x000000010C00 := by decide

/-- Vector E13: the reserved `op` values, the rest of the descriptor kept. -/
theorem test_decode_reserved :
    decodeCommand Params.default 0x000000000006 = .ok (.reservedOp6 0) ∧
    decodeCommand Params.default 0x000000000007 = .ok (.reservedOp7 0) ∧
    decodeCommand Params.default 0xFFFFFFFFFFFE = .ok (.reservedOp6 0x1FFFFFFFFFFF) ∧
    decodeCommand Params.default 0x80000000000F = .ok (.reservedOp7 0x100000000001) := by decide

/-- Vectors E14, E15 and one descriptor for each must-be-zero field of R71. -/
theorem test_decode_must_be_zero :
    decodeCommand Params.default 0x010001035001 = .error (.mustBeZero 31 24) ∧
    decodeCommand Params.default 0x010000035009 = .error (.mustBeZero 7 3) ∧
    decodeCommand Params.default 0x01000003D001 = .error (.mustBeZero 15 15) ∧
    decodeCommand Params.default 0x00000001D003 = .error (.mustBeZero 15 15) ∧
    decodeCommand Params.default 0x000000040000 = .error (.mustBeZero 47 18) ∧
    decodeCommand Params.default 0x800000000004 = .error (.mustBeZero 47 8) ∧
    decodeCommand Params.default 0x000000000105 = .error (.mustBeZero 47 8) := by decide

/-- R71 at other widths, the fields in the same order, each where the one before it ends: a transaction is `op` 2:0,
address 14:8, `len0` 19:16, `len1` 23:20, `buf` 35:24; an INIT is `div` 13:8, `pre` 16:14; the bits above are zero. -/
theorem test_decode_other_widths :
    decodeCommand narrow 0x123035001 = .ok (.write 0x50 0x123 3) ∧
    decodeCommand narrow 0xFFF0F7F02 = .ok (.read 0x7F 0xFFF 15) ∧
    decodeCommand narrow 0x456216803 = .ok (.writeRead 0x68 0x456 1 2) ∧
    decodeCommand narrow 0x1FF00 = .ok (.init 63 7) ∧ decodeCommand narrow 0x4200 = .ok (.init 2 1) ∧
    decodeCommand narrow 0x123135001 = .error (.mustBeZero 23 20) ∧
    decodeCommand narrow 0x000020000 = .error (.mustBeZero 35 17) ∧
    decodeCommand narrow 0x1000000004 = .error .tooLong ∧
    encode narrow (.writeRead 0x68 0x456 1 2) = .command 0x456216803 := by decide

/-- Where INIT's layout is the longer one, the bits above a transaction's last field are zero (R71, R77). -/
theorem test_decode_wide_divider :
    decodeCommand { addrW := 4, cntW := 2, divW := 24, preW := 2 } 0x715001 = .ok (.write 0x50 7 1) ∧
    decodeCommand { addrW := 4, cntW := 2, divW := 24, preW := 2 } 0x1715001 = .error (.mustBeZero 33 24) := by decide

/-- R74's table, with the low three bits ignored (vectors E16 to E19). -/
theorem test_decode_events :
    decodeEvent 0x08 = .startSent 0x08 ∧ decodeEvent 0x09 = .startSent 0x09 ∧ decodeEvent 0x0F = .startSent 0x0F ∧
    decodeEvent 0x10 = .repStartSent 0x10 ∧ decodeEvent 0x18 = .slawAck 0x18 ∧ decodeEvent 0x28 = .txdataAck 0x28 ∧
    decodeEvent 0x38 = .arbLost 0x38 ∧ decodeEvent 0x40 = .slarAck 0x40 ∧ decodeEvent 0x50 = .rxdataAck 0x50 ∧
    decodeEvent 0x58 = .rxdataNack 0x58 := by decide

/-- Class OTHER (vectors E17, D11). -/
theorem test_decode_other :
    decodeEvent 0x20 = .otherSlawNack 0x20 ∧ decodeEvent 0x23 = .otherSlawNack 0x23 ∧
    decodeEvent 0x30 = .otherTxdataNack 0x30 ∧ decodeEvent 0x48 = .otherSlarNack 0x48 ∧
    decodeEvent 0x00 = .otherBusError 0x00 ∧ decodeEvent 0xF8 = .otherNoState 0xF8 ∧
    decodeEvent 0x60 = .other 0x60 ∧ decodeEvent 0xA8 = .other 0xA8 := by decide

/-- R75's control bytes (vector E20 among them), read back; CW_HOLD is CW_ARM's word. -/
theorem test_decode_control :
    decodeControl 0x04 = .ok .cwArm ∧ decodeControl 0xA5 = .ok .cwStart ∧ decodeControl 0x85 = .ok .cwNext ∧
    decodeControl 0xC5 = .ok .cwNextAck ∧ decodeControl 0x94 = .ok .cwStop ∧
    decodeControl 0x05 = .error .unknownControlWord ∧ encode Params.default .cwHold = .control 0x04 := by decide

/-- Vector E20: the word of six fields is 0xC5. -/
theorem test_pack_control :
    packControl defaultLayout { en := true, ie := true, sta := false, sto := false, ea := true, rearm := true } =
      0xC5 := by decide

/-- The table's numbering: an 8-bit word is a status byte, a 48-bit word a descriptor. -/
theorem test_table_word :
    decodeTableWord 8 0x38 = some (.arbLost 0x38) ∧
    decodeTableWord 48 0x030002016803 = some (.writeRead 0x68 0x0300 1 2) ∧
    decodeTableWord 48 0x010001035001 = none := by decide

/-- Vectors E1 to E5. -/
theorem test_addr_byte :
    addrByte 0x50 0 = 0xA0 ∧ addrByte 0x50 1 = 0xA1 ∧ addrByte 0x00 0 = 0x00 ∧ addrByte 0x7F 1 = 0xFF ∧
    addrByte 0x68 0 = 0xD0 ∧ flipDirection 0xD0 = 0xD1 := by decide

/-! ### One step, host commands -/

/-- Vector D1: INIT from hardware reset, run by the step from the placed word. -/
theorem test_init :
    nextIs (step (State.reset.withFetchWord 48 0x000000004800)) (fun t =>
      t.clkdiv = 0x48 && t.clkpre = 0 && t.wcnt = 0 && t.rcnt = 0 && t.presented = none && t.trace = [.ctl .arm] &&
        ctrlBits t = [true, false, false, false, false, false]) = true := by decide

/-- Vector F3. -/
theorem test_init_busy :
    records .initWhileBusy (exec (.init 0x48 0) (flight 0xA0 0x0100 3 0 0)) (flight 0xA0 0x0100 3 0 0) =
      true := by decide

/-- P1 step 1. -/
theorem test_write :
    nextIs (step (present 0x010000035001 idle)) (fun t =>
      t.ta = 0xA0 && t.wptr = 0x0100 && t.wcnt = 3 && t.rptr = 0 && t.rcnt = 0 && t.outcome = .busy && t.ctrl.ie &&
        t.trace = [.ctl .arm, .ctl .start]) = true := by decide

/-- Vectors F2 and D1d: before INIT, and while busy. -/
theorem test_write_not_now :
    records .notInitialized (exec (.write 0x50 0x0100 3) State.reset) State.reset = true ∧
    nextIs (step (present 0x020000025002 (flight 0xA0 0x0100 3 0 0))) (fun t =>
      t.presented = some 0x020000025002 && t.rcnt = 0 && t.wcnt = 3) = true := by decide

/-- P2 step 1. -/
theorem test_read :
    nextIs (step (present 0x020000025002 idle)) (fun t =>
      t.ta = 0xA1 && t.wptr = 0 && t.wcnt = 0 && t.rptr = 0x0200 && t.rcnt = 2 && t.trace = [.ctl .arm, .ctl .start]) =
      true := by decide

/-- Vector F6 and its accepted neighbour. -/
theorem test_read_wrap :
    records .bufferWrap (step (present 0xFFFF00FF7F02 idle)) idle = true ∧
    nextIs (step (present 0xFF0100FF7F02 idle)) (fun t => t.rptr = 0xFF01 && t.rcnt = 255) = true := by decide

/-- P3 step 1: both cursors on the one buffer. -/
theorem test_write_read :
    nextIs (step (present 0x030002016803 idle)) (fun t =>
      t.ta = 0xD0 && t.wptr = 0x0300 && t.wcnt = 1 && t.rptr = 0x0300 && t.rcnt = 2) = true := by decide

/-- Vectors D1a, D1c. -/
theorem test_is_busy :
    nextIs (exec .isBusy State.reset) (fun t => t.response = some 0) = true ∧
    nextIs (exec .isBusy (flight 0xA0 0x0100 3 0 0)) (fun t => t.response = some 1 && t.borrow.isSome) =
      true ∧
    nextIs (exec .isBusy { flight 0xA1 0 0 0x0200 2 with ctrl := idle.ctrl }) (fun t =>
      t.response = some 0 && t.borrow = none) = true := by decide

/-- R97: 0 for Success, 1 for Error. -/
theorem test_get_status :
    nextIs (exec .getStatus { idle with outcome := .success }) (fun t => t.response = some 0) = true ∧
    nextIs (exec .getStatus { idle with outcome := .error }) (fun t => t.response = some 1) = true := by decide

/-- Vectors F4, F5 and E15. -/
theorem test_illegal_commands :
    refusedIs (step (present 0x000000000006 idle)) .illegalCommand = true ∧
    refusedIs (step (present 0x000000000007 idle)) .illegalCommand = true ∧
    refusedIs (step (present 0x010001035001 idle)) .illegalCommand = true ∧
    refusedIs (step (present 0x010000035009 idle)) .illegalCommand = true := by decide

/-- Vector F7: the read during the transaction; R183: the read after the terminal step of P2, still before an ISBUSY
returned 0. -/
theorem test_borrow :
    records .borrowViolation (hostLoad 0x0200 (flight 0xA1 0 0 0x0200 2)) (flight 0xA1 0 0 0x0200 2) = true ∧
    nextIs (exec (.rxdataNack 0x58) (pending 0x58 0xAD (flight 0xA1 0 0 0x0200 1))) (fun t =>
      t.ctrl.ie = false && records .borrowViolation (hostLoad 0x0200 t) t &&
        records .borrowViolation (hostStore 0x0200 7 t) t) = true := by decide

/-- R198: a byte not lent may be written during the transaction; F7's accepted neighbour: the read once the ISBUSY of
P2's step 6 has returned 0. -/
theorem test_host_access :
    nextIs (hostStore 0x0202 7 (flight 0xA1 0 0 0x0200 2)) (fun u =>
      u.borrow.isSome && u.mem = [(0x0100, 1), (0x0101, 2), (0x0102, 3), (0x0202, 7)]) = true ∧
    nextIs (exec (.rxdataNack 0x58) (pending 0x58 0xAD (flight 0xA1 0 0 0x0200 1))) (fun t =>
      nextIs (exec .isBusy t) (fun u => u.response = some 0 && nextIs (hostLoad 0x0200 u) (fun v =>
        v.hostByte = some 0xAD && v.faults = []))) = true := by decide

/-! ### One step, port events -/

/-- P1 step 2. -/
theorem test_start_sent :
    nextIs (step (turn .sequencer (pending 0x08 0 (flight 0xA0 0x0100 3 0 0)))) (fun t =>
      t.data = 0xA0 && t.wcnt = 3 && t.trace = [.ctl .arm, .ctl .start, .dat 0xA0, .ctl .next] &&
        ctrlBits t = [true, true, false, false, false, false]) = true := by decide

/-- P3 step 6. -/
theorem test_rep_start_sent :
    nextIs (step (turn .sequencer (pending 0x10 0 (flight 0xD1 0x0301 0 0x0300 2)))) (fun t =>
      t.data = 0xD1 && t.rcnt = 2 && t.trace = [.ctl .arm, .ctl .start, .dat 0xD1, .ctl .next]) = true := by decide

/-- P1 step 3. -/
theorem test_slaw_ack :
    nextIs (step (turn .sequencer (pending 0x18 0 (flight 0xA0 0x0100 3 0 0)))) (fun t =>
      t.data = 0x01 && t.wptr = 0x0101 && t.wcnt = 2 &&
        t.trace = [.ctl .arm, .ctl .start, .dat 0x01, .ctl .next]) = true := by decide

/-- Vector D2, second event: a zero-length write ends on the address acknowledgment. -/
theorem test_slaw_ack_empty :
    nextIs (step (turn .sequencer (pending 0x18 0 (flight 0xA0 0x0100 0 0 0)))) (fun t =>
      t.outcome = .success && t.trace = [.ctl .arm, .ctl .start, .ctl .stop] &&
        ctrlBits t = [true, false, false, true, false, false]) = true := by decide

/-- P1 step 5: the last byte, at the end of the region. -/
theorem test_txdata_ack :
    nextIs (step (turn .sequencer (pending 0x28 0 (flight 0xA0 0x0102 1 0 0)))) (fun t =>
      t.data = 0x03 && t.wptr = 0x0103 && t.wcnt = 0 && t.outcome = .busy && t.ctrl.ie) = true := by decide

/-- P3 step 5 and vector X1: the direction bit is inverted, not set. -/
theorem test_txdata_ack_flip :
    nextIs (step (turn .sequencer (pending 0x28 0 (flight 0xD0 0x0301 0 0x0300 2)))) (fun t =>
      t.ta = 0xD1 && t.rcnt = 2 && t.trace = [.ctl .arm, .ctl .start, .ctl .start]) = true ∧
    nextIs (step (turn .sequencer (pending 0x28 0 (flight 0xA1 0 0 0x0200 2)))) (fun t => t.ta = 0xA0) = true := by
  decide

/-- P3 step 2. -/
theorem test_arb_lost :
    nextIs (step (turn .sequencer (pending 0x38 0 (flight 0xD0 0x0300 1 0x0300 2)))) (fun t =>
      t.ta = 0xD0 && t.wcnt = 1 && t.rcnt = 2 && t.outcome = .busy &&
        t.trace = [.ctl .arm, .ctl .start, .ctl .start] && ctrlBits t = [true, true, true, false, false, false]) =
      true := by decide

/-- P2 step 3 and vector D3: ACK for the first of two bytes, NACK for the first of one. -/
theorem test_slar_ack :
    nextIs (step (turn .sequencer (pending 0x40 0 (flight 0xA1 0 0 0x0200 2)))) (fun t =>
      t.ctrl.ea && t.rcnt = 2 && t.trace = [.ctl .arm, .ctl .start, .ctl .nextAck]) = true ∧
    nextIs (step (turn .sequencer (pending 0x40 0 (flight 0xA1 0 0 0x0200 1)))) (fun t =>
      !t.ctrl.ea && t.trace = [.ctl .arm, .ctl .start, .ctl .next]) = true := by decide

/-- P2 step 4: the decision is taken with the decremented count. -/
theorem test_rxdata_ack :
    nextIs (step (turn .sequencer (pending 0x50 0xDE (flight 0xA1 0 0 0x0200 2)))) (fun t =>
      memRead t 0x0200 = 0xDE && t.rptr = 0x0201 && t.rcnt = 1 && !t.ctrl.ea && t.ctrl.ie &&
        t.trace = [.ctl .arm, .ctl .start, .ctl .next]) = true := by decide

/-- Vector D5, third event: two bytes still outstanding after the store, so ACK. -/
theorem test_rxdata_ack_more :
    nextIs (step (turn .sequencer (pending 0x50 0x0A (flight 0x91 0 0 0x0400 3)))) (fun t =>
      memRead t 0x0400 = 0x0A && t.rcnt = 2 && t.ctrl.ea) = true := by decide

/-- P2 step 5. -/
theorem test_rxdata_nack :
    nextIs (step (turn .sequencer (pending 0x58 0xAD (flight 0xA1 0 0 0x0201 1)))) (fun t =>
      memRead t 0x0201 = 0xAD && t.rptr = 0x0202 && t.rcnt = 0 && t.outcome = .success && !t.ctrl.ie && t.ctrl.sto) =
      true := by decide

/-- Vector F1, third event. -/
theorem test_rxdata_underflow :
    records .cursorUnderflow (step (turn .sequencer (pending 0x58 0x55 (flight 0xA1 0 0 0x0200 0))))
      (pending 0x58 0x55 (flight 0xA1 0 0 0x0200 0)) = true := by decide

/-- Vectors D4 and D11: the raw byte, all eight bits; `iflag` stays; the cursors stay. -/
theorem test_other :
    nextIs (step (turn .sequencer (pending 0x23 0 (flight 0xA0 0x0100 1 0 0)))) (fun t =>
      t.errsig = 0x23 && t.outcome = .error && t.wcnt = 1 && t.trace = [.ctl .arm, .ctl .start, .ctl .hold] &&
        ctrlBits t = [true, false, false, false, false, true]) = true := by decide

/-- The other rows of class OTHER (R124). -/
theorem test_other_rows :
    [0x30#8, 0x48#8, 0x00#8, 0xF8#8, 0xA8#8].all (fun b =>
      nextIs (step (turn .sequencer (pending b 0 (flight 0xA0 0x0100 1 0 0)))) (fun t =>
        t.errsig = b && t.outcome = .error && !t.ctrl.ie)) = true := by decide

/-- R151: an event left over while idle is not serviced. -/
theorem test_event_while_idle :
    nextIs (step (turn .sequencer (pending 0x20 0 idle))) (fun t => t.ctrl.iflag && t.outcome = .busy && t.errsig = 0) =
      true := by decide

/-! ### One step, control words and the port -/

/-- R75: the fields of CW_NEXT_ACK, with `iflag` cleared; CW_HOLD leaves `iflag`. -/
theorem test_control_words :
    nextIs (exec .cwNextAck (pending 0x08 0 idle)) (fun t => ctrlBits t = [true, true, false, false, true, false]) =
      true ∧
    nextIs (exec .cwHold (pending 0x08 0 idle)) (fun t => ctrlBits t = [true, false, false, false, false, true]) =
      true ∧
    nextIs (exec .cwStop (pending 0x08 0 idle)) (fun t => ctrlBits t = [true, false, false, true, false, false]) =
      true := by decide

/-- R143: a scripted event is delivered in one action; R144: an unarmed port does nothing. -/
theorem test_port :
    nextIs (step (turn .port { flight 0xA0 0x0100 3 0 0 with portScript := [{ status := 0x08, data := 0x5A }] }))
      (fun t => t.status = 0x08 && t.data = 0x5A && t.ctrl.iflag && t.portScript = []) = true ∧
    nextIs (step (turn .port { idle with portScript := [{ status := 0x08, data := 0x5A }] }))
      (fun t => t.status = 0xF8 && !t.ctrl.iflag && t.portScript = [{ status := 0x08, data := 0x5A }]) =
      true := by decide

/-- R24, D9: the stored codes of `outcome`. -/
theorem test_outcome_codes : [TxOutcome.busy, .success, .error].map outcomeCode = [0, 1, 2] := by decide

/-- R147 on P1's trace. -/
theorem test_projection :
    projectTrace [.ctl .start, .dat 0xA0, .ctl .next, .dat 0x01, .ctl .next, .ctl .stop] =
      [.start, .byte 0xA0, .byte 0x01, .stop] := by decide

/-! ### Witnesses: hypotheses of the obligations, met -/

/-- DecodeOfEncode, EncodeOfDecode: one instruction of each format, the operands at both ends. -/
theorem witness_encoding :
    WellFormedWith Params.default classify (.writeRead 0x7F 0xFFFF 255 0) = true ∧
    decodeWith Params.default classify (.command 0xFFFF00FFFF03) ≠ .ok (.writeRead 0x7F 0xFFFF 255 0) ∧
    decodeWith Params.default classify (.command 0xFFFF00FF7F03) = .ok (.writeRead 0x7F 0xFFFF 255 0) ∧
    WellFormedWith Params.default classify (.other 0x60) = true ∧
    decodeWith Params.default classify (.event 0x60) = .ok (.other 0x60) ∧
    Instr.other 0x60 ≠ .cwHold ∧ decodeWith Params.default classify (.control 0xA5) = .ok .cwStart := by decide

/-- IllegalDescriptorsAreRefused: each clause of `illegal` at the default widths, one where INIT's layout is the longer,
and a legal descriptor. -/
theorem witness_illegal :
    (present 0x010000035001 idle).presented = some 0x010000035001 ∧
    (present 0x010000035001 idle).schedule = .host :: [] ∧
    max (16 + 2 * Params.default.cntW + Params.default.addrW) (8 + Params.default.divW + Params.default.preW) = 48 ∧
    0xFFFFFFFFFFFF < 2 ^ 48 ∧ 6 ≤ 0x000000000006 % 8 ∧ 0x010000035009 / 2 ^ 3 % 2 ^ 5 ≠ 0 ∧
    0x000000040000 / 2 ^ (8 + 8 + 2) ≠ 0 ∧ 0x000000000104 / 2 ^ 8 ≠ 0 ∧ 0x00000000D003 / 2 ^ 15 % 2 ≠ 0 ∧
    0x1715001 / 2 ^ (16 + 2 * 2 + 4) ≠ 0 ∧ 0x010001035001 / 2 ^ (16 + 8) % 2 ^ 8 ≠ 0 ∧
    decodeCommand Params.default 0x010000035001 = .ok (.write 0x50 0x0100 3) := by decide

/-- ControlLayoutLosesNothing. -/
theorem witness_layout : layoutDistinct defaultLayout = true := by decide

/-- InitArmsTheIdleBlock, IsBusyReturnsInterruptEnable: both values of `ie`. -/
theorem witness_idle_and_busy : idle.ctrl.ie = false ∧ (flight 0xA0 0x0100 3 0 0).ctrl.ie = true := by decide

/-- The three transaction commands: armed or not, the longest region that fits and the first that does not. -/
theorem witness_transactions :
    idle.ctrl.ie = false ∧ idle.ctrl.en = true ∧ State.reset.ctrl.ie = false ∧ State.reset.ctrl.en = false ∧
    0xFF01 + 255 ≤ 2 ^ State.reset.params.addrW ∧
    2 ^ State.reset.params.addrW < 0xFF02 + 255 := by decide

/-- GetStatusMapsOutcome: the three outcomes. -/
theorem witness_outcomes :
    State.reset.outcome = .busy ∧ { idle with outcome := .success }.outcome = .success ∧
    { idle with outcome := .error }.outcome = .error := by decide

/-- The event statements: the line high, with counts at the boundaries of each clause. -/
theorem witness_events :
    (pending 0x18 0 (flight 0xA0 0x0100 1 0 0)).ctrl.iflag = true ∧
    (pending 0x18 0 (flight 0xA0 0x0100 1 0 0)).ctrl.ie = true ∧
    (pending 0x18 0 (flight 0xA0 0x0100 1 0 0)).wcnt ≠ 0 ∧
    (pending 0x28 0 (flight 0xD0 0x0300 0 0x0300 1)).wcnt = 0 ∧
    (pending 0x28 0 (flight 0xD0 0x0300 0 0x0300 1)).rcnt ≠ 0 ∧
    (pending 0x28 0 (flight 0xA0 0x0300 0 0 0)).wcnt = 0 ∧
    (pending 0x28 0 (flight 0xA0 0x0300 0 0 0)).rcnt = 0 := by decide

/-- EventsNeedTheInterruptLine: no event pending, and idle. -/
theorem witness_line_low :
    (Instr.slawAck 0x18).format = .evt ∧ (flight 0xA0 0x0100 1 0 0).ctrl.iflag = false ∧
    (pending 0x18 0 idle).ctrl.ie = false := by decide

/-- DispatchIsOnTheClassAlone: two bytes of one named class, two of class OTHER, and a next state. -/
theorem witness_dispatch :
    classify 0x08 = classify 0x0F ∧ classify 0x08 ≠ .other ∧ classify 0x20 = classify 0xF8 ∧ classify 0x20 = .other ∧
    ∃ t, exec (decodeEventWith classify 0x20) (pending 0x20 0 (flight 0xA0 0x0100 1 0 0)) = .next t :=
  ⟨by decide, by decide, by decide, by decide, _, rfl⟩

/-- OneControlWordEndsEveryEventStep, ReceiveEventsWriteOneByte: a receive event with room for one byte, and with
none. -/
theorem witness_event_step :
    (Instr.rxdataNack 0x58).format = .evt ∧ isReceiveEvent (.rxdataNack 0x58) = true ∧
    (pending 0x58 0xAD (flight 0xA1 0 0 0xFFFF 1)).ctrl.iflag = true ∧
    (pending 0x58 0xAD (flight 0xA1 0 0 0xFFFF 1)).ctrl.ie = true ∧
    (pending 0x58 0xAD (flight 0xA1 0 0 0xFFFF 1)).rcnt ≠ 0 ∧
    (∃ t, exec (.rxdataNack 0x58) (pending 0x58 0xAD (flight 0xA1 0 0 0xFFFF 1)) = .next t) ∧
    (pending 0x50 0xAD (flight 0xA1 0 0 0xFFFF 0)).rcnt = 0 ∧
    ∃ t, exec (.rxdataAck 0x50) (pending 0x50 0xAD (flight 0xA1 0 0 0xFFFF 0)) = .next t :=
  ⟨rfl, rfl, rfl, rfl, by decide, ⟨_, rfl⟩, rfl, _, rfl⟩

/-- OnlyReceiveEventsWriteMemory: an instruction that writes no memory and answers a next state. -/
theorem witness_no_store :
    isReceiveEvent (.slarAck 0x40) = false ∧
    ∃ t, exec (.slarAck 0x40) (pending 0x40 0 (flight 0xA1 0 0 0x0200 2)) = .next t := ⟨rfl, _, rfl⟩

/-- RegistersHaveOnlyTheirWriters, BlockNeverRaisesAnEvent: ISBUSY is in none of the lists but that of the borrow,
GETSTATUS in none; `iflag` set after a step that leaves it. -/
theorem witness_no_writer :
    isTransaction .isBusy = false ∧ isTransmitEvent .isBusy = false ∧ isReceiveEvent .isBusy = false ∧
    isOtherEvent .isBusy = false ∧ isStartEvent .isBusy = false ∧ Instr.getStatus ≠ .isBusy ∧
    nextIs (exec .isBusy (pending 0x08 0 idle)) (fun t => t.ctrl.iflag) = true ∧
    nextIs (exec .getStatus { idle with outcome := .error }) (fun _ => true) = true := by decide

/-- CommandsLeaveTransactionInFlight. -/
theorem witness_command_in_flight :
    Instr.isBusy.format = .cmd ∧ (flight 0xA0 0x0100 3 0 0).ctrl.ie = true ∧
    ∃ t, exec .isBusy (flight 0xA0 0x0100 3 0 0) = .next t := ⟨rfl, rfl, _, rfl⟩

/-- StepRunsThePresentedCommand: presented, and next in the script. -/
theorem witness_host_turn :
    (present 0x000000000004 idle).schedule = .host :: [] ∧
    (present 0x000000000004 idle).presented = some 0x000000000004 ∧
    decodeCommand Params.default 0x000000000004 = .ok .isBusy ∧
    (turn .host { idle with hostScript := [.command 0x000000000004] }).presented = none ∧
    (turn .host { idle with hostScript := [.command 0x000000000004] }).hostScript = .command 0x000000000004 :: [] := by
  decide

/-- StepRunsTheStatusByte, PortDeliversOneEvent: a turn of each, the port armed and not. -/
theorem witness_turns :
    (turn .sequencer idle).schedule = .sequencer :: [] ∧ (turn .port (flight 0xA0 0 0 0 0)).schedule = .port :: [] ∧
    (flight 0xA0 0 0 0 0).ctrl.en = true ∧ (flight 0xA0 0 0 0 0).ctrl.iflag = false ∧
    (flight 0xA0 0 0 0 0).port.rearmed = true ∧
    { flight 0xA0 0 0 0 0 with portScript := [{ status := 0x08, data := 0 }] }.portScript ≠ [] ∧
    State.reset.ctrl.en = false ∧ (pending 0x08 0 (flight 0xA0 0 0 0 0)).ctrl.iflag = true ∧
    idle.port.rearmed = false := by decide

/-- R50: the last address of buffer memory exists, the next number is none. -/
theorem test_no_such_address :
    faultIs (hostLoad 0x10000 idle) .noSuchAddress = true ∧ faultIs (hostStore 0x10000 0 idle) .noSuchAddress = true ∧
    nextIs (hostStore 0xFFFF 7 idle) (fun t => t.mem = [(0xFFFF, 7)]) = true := by decide

/-- HostAccessRespectsTheBorrow: with 0x0200 to 0x0201 lent to be read into and 0x0100 to 0x0102 lent to be sent, the
first and last lent address and the addresses beside them. -/
theorem witness_host_access :
    let b : Borrow := { wbase := 0x0100, wlen := 3, rbase := 0x0200, rlen := 2 }
    (turn .host { flight 0xA0 0x0100 3 0x0200 2 with hostScript := [.load 0x0201] }).borrow = some b ∧
    (turn .host { flight 0xA0 0x0100 3 0x0200 2 with hostScript := [.load 0x0201] }).schedule = .host :: [] ∧
    (turn .host { flight 0xA0 0x0100 3 0x0200 2 with hostScript := [.load 0x0201] }).presented = none ∧
    (turn .host { flight 0xA0 0x0100 3 0x0200 2 with hostScript := [.load 0x0201] }).hostScript = .load 0x0201 :: [] ∧
    (turn .host { idle with hostScript := [.store 0x0100 7] }).hostScript = .store 0x0100 7 :: [] ∧
    b.forbidsLoad 0x0200 = true ∧ b.forbidsLoad 0x0201 = true ∧ b.forbidsLoad 0x0202 = false ∧
    0xFFFF < 2 ^ Params.default.addrW ∧ 2 ^ Params.default.addrW ≤ 0x10000 ∧
    b.forbidsLoad 0x01FF = false ∧ b.forbidsLoad 0x0100 = false ∧
    b.forbidsStore 0x0100 = true ∧ b.forbidsStore 0x0102 = true ∧ b.forbidsStore 0x0103 = false := by decide

/-- HeldCommandStaysPresented: the command held, and the sequencer's turn. -/
theorem witness_held :
    let s := turn .sequencer { pending 0x18 0 (flight 0xA0 0x0100 3 0 0) with presented := some 0x020000025002 }
    s.presented = some 0x020000025002 ∧ decodeCommand Params.default 0x020000025002 = .ok (.read 0x50 0x0200 2) ∧
    isTransaction (.read 0x50 0x0200 2) = true ∧ s.ctrl.ie = true ∧ ∃ t, stepWith classify s = .next t :=
  ⟨rfl, by decide, rfl, rfl, _, rfl⟩

/-- TransactionsEndInThreeWays: each of the three ways. -/
theorem witness_terminal_steps :
    [turn .sequencer (pending 0x28 0 (flight 0xA0 0x0100 0 0 0)),
      turn .sequencer (pending 0x58 0x11 (flight 0xA1 0 0 0x0200 1)),
      turn .sequencer (pending 0x20 0 (flight 0xA0 0x0100 3 0 0))].all (fun s =>
        s.ctrl.ie && nextIs (stepWith classify s) (fun t => !t.ctrl.ie)) = true := by decide

/-- CountsNeverIncreaseInFlight, NoStopInsideATransaction: a step inside a transaction. -/
theorem witness_step_in_flight :
    (turn .sequencer (pending 0x18 0 (flight 0xA0 0x0100 3 0 0))).ctrl.ie = true ∧
    nextIs (stepWith classify (turn .sequencer (pending 0x18 0 (flight 0xA0 0x0100 3 0 0)))) (fun t => t.ctrl.ie) =
      true := by decide

/-- FinishedRunStaysFinished: idle, with an event left over. -/
theorem witness_run_over : runOver (pending 0x20 0 idle) = true ∧ runOver State.reset = true := by decide

/-- StepKeepsInvariants: the invariants in a state in flight, and a step from it. -/
theorem witness_inv :
    Inv (turn .sequencer (pending 0x18 0 (flight 0xA0 0x0100 3 0 0))) ∧
    ∃ t, step (turn .sequencer (pending 0x18 0 (flight 0xA0 0x0100 3 0 0))) = .next t :=
  ⟨⟨fun _ => rfl, fun _ _ => rfl, fun _ => rfl, fun h => absurd h (by decide)⟩, _, rfl⟩

/-- CtrlStaysTheLastControlWord. -/
theorem witness_ctrl_word :
    CtrlIsLastWord State.reset ∧ CtrlIsLastWord (turn .sequencer (pending 0x18 0 (flight 0xA0 0x0100 3 0 0))) ∧
    ∃ t, stepWith classify (turn .sequencer (pending 0x18 0 (flight 0xA0 0x0100 3 0 0))) = .next t :=
  ⟨⟨rfl, rfl, rfl, rfl, rfl, rfl, rfl⟩, ⟨rfl, rfl, rfl, rfl, rfl, rfl, rfl⟩, _, rfl⟩

/-- StepKeepsMemoryCanonical: three bytes listed and one more stored at the top; lists that are not canonical. -/
theorem witness_memory :
    Memory.wf (turn .sequencer (pending 0x58 0x11 (flight 0xA1 0 0 0xFFFF 1))).mem = true ∧
    Memory.wf [(0x0000, 0x00), (0xFFFF, 0x01)] = true ∧ Memory.wf [(0x0002, 0x00), (0x0001, 0x01)] = false ∧
    Memory.wf [(0x0001, 0x00), (0x0001, 0x01)] = false ∧
    nextIs (stepWith classify (turn .sequencer (pending 0x58 0x11 (flight 0xA1 0 0 0xFFFF 1))))
      (fun t => Memory.wf t.mem) = true := by decide

/-- StepKeepsWidths: pointer and count at the top of their ranges, the pointer wrapping in the step. -/
theorem witness_widths :
    let s := turn .sequencer (pending 0x58 0x11 (flight 0xA1 0 0 0xFFFF 255))
    FitsWidths s ∧ ∃ t, stepWith classify s = .next t ∧ t.rptr = 0 ∧ t.rcnt = 254 :=
  ⟨⟨by decide, by decide, by decide, by decide, by decide, by decide, by
    intro a v h
    change (a, v) ∈ [((0x0100 : Nat), (0x01 : Byte)), (0x0101, 0x02), (0x0102, 0x03)] at h
    change a < 65536
    simp at h
    omega⟩, _, rfl, rfl, rfl⟩

/-- FaultsAreSticky: a step that records a fault beside the one recorded before, and one whose fault is in the set. -/
theorem witness_faults :
    let s := turn .sequencer { pending 0x58 0x55 (flight 0xA1 0 0 0x0200 0) with faults := [.bufferWrap] }
    (∃ t, stepWith classify s = .next t ∧ t.faults = [.bufferWrap, .cursorUnderflow]) ∧
    ∃ t, stepWith classify { s with faults := [.cursorUnderflow] } = .next t ∧ t.faults = [.cursorUnderflow] :=
  ⟨⟨_, rfl, rfl⟩, _, rfl, rfl⟩

/-- CursorsStayInTheirRegions, SequencerStaysInLentRegions: a region that ends at the top of the address space, before
its last byte is sent; and a byte received into the last address of a lent region, which then reads otherwise. -/
theorem witness_cursors :
    let s := turn .sequencer
      { pending 0x28 0 (flight 0xA0 0xFFFF 1 0 0) with
        borrow := some { wbase := 0xFFFE, wlen := 2, rbase := 0, rlen := 0 } }
    let u := turn .sequencer
      { pending 0x58 0x77 (flight 0xA1 0 0 0x0102 1) with
        borrow := some { wbase := 0, wlen := 0, rbase := 0x0101, rlen := 2 } }
    (CursorsInBorrow s ∧ s.schedule = .sequencer :: [] ∧ ∃ t, stepWith classify s = .next t ∧ t.wcnt ≠ s.wcnt) ∧
    (CursorsInBorrow u ∧ u.schedule = .sequencer :: [] ∧
      ∃ t, stepWith classify u = .next t ∧ memRead t 0x0102 ≠ memRead u 0x0102) :=
  ⟨⟨fun _ => ⟨_, rfl, ⟨by decide, by decide, by decide⟩, ⟨by decide, by decide, by decide⟩⟩, rfl, _, rfl, by decide⟩,
    ⟨fun _ => ⟨_, rfl, ⟨by decide, by decide, by decide⟩, ⟨by decide, by decide, by decide⟩⟩, rfl, _, rfl, by decide⟩⟩

/-- WellBehavedPortNeverUnderflows: about to receive the last byte, and the port's next event the one it may deliver. -/
theorem witness_on_track :
    let s := turn .port
      { flight 0xA1 0 0 0x0200 1 with
        trace := [.ctl .arm, .ctl .start, .dat 0xA1, .ctl .next, .ctl .next]
        portScript := [{ status := 0x58, data := 0x7F }] }
    OnTrack classify s ∧ NoZeroRead s ∧ ∃ t, stepWith classify s = .next t ∧ WellBehavedStep classify s t := by
  refine ⟨⟨fun _ h => absurd h (by decide), fun _ => by decide, fun _ _ => by decide, ?_,
    fun _ h => absurd h (by decide), ?_⟩, ⟨(fun d h => by cases h), (fun d h => by cases h)⟩, _, rfl,
    fun _ _ => by decide⟩
  · intro r _ h
    have : Phase.receive false = .addrSent r := h
    cases this
  · intro a _ h
    have : Phase.receive false = .receive a := h
    cases this
    decide

/-- WriteRunSendsTheBuffer: three bytes, every one acknowledged, and the same for a write of length 0. -/
theorem witness_write_run :
    let es : List PortEvent := [⟨0x08, 0⟩, ⟨0x18, 0⟩, ⟨0x28, 0⟩, ⟨0x28, 0⟩, ⟨0x28, 0⟩]
    let s := { idle with
      hostScript := [.command (0x010000035001)]
      portScript := es ++ [], schedule := .host :: (serviceTurns 5 ++ []) }
    s.ctrl.ie = false ∧ s.ctrl.en = true ∧ 0x0100 + 3 ≤ 2 ^ State.reset.params.addrW ∧
    s.presented = none ∧ decodeCommand s.params 0x010000035001 = .ok (.write 0x50 0x0100 3) ∧
    s.hostScript = .command 0x010000035001 :: [] ∧ s.schedule = .host :: (serviceTurns (3 + 2) ++ []) ∧
    es.map (fun e => classify e.status) =
      .startSent :: .slawAck :: List.replicate 3 .txdataAck ∧
    [0x08#8, 0x18#8].map classify = .startSent :: .slawAck :: List.replicate 0 .txdataAck := by decide

/-- ReadRunFillsTheBuffer: two bytes, and one byte. -/
theorem witness_read_run :
    let es : List PortEvent := [⟨0x08, 0⟩, ⟨0x40, 0⟩, ⟨0x50, 0xDE⟩, ⟨0x58, 0xAD⟩]
    let s := { idle with
      hostScript := [.command (0x020000025002)]
      portScript := es ++ [], schedule := .host :: (serviceTurns 4 ++ []) }
    s.ctrl.ie = false ∧ s.ctrl.en = true ∧ 0x0200 + 2 ≤ 2 ^ State.reset.params.addrW ∧
    (2 : Nat) ≠ 0 ∧ s.presented = none ∧
    decodeCommand s.params 0x020000025002 = .ok (.read 0x50 0x0200 2) ∧
    s.hostScript = .command 0x020000025002 :: [] ∧ s.schedule = .host :: (serviceTurns (2 + 2) ++ []) ∧
    es.map (fun e => classify e.status) =
      .startSent :: .slarAck :: (List.replicate (2 - 1) .rxdataAck ++ [.rxdataNack]) ∧
    [0x08#8, 0x40#8, 0x58#8].map classify =
      .startSent :: .slarAck :: (List.replicate (1 - 1) .rxdataAck ++ [.rxdataNack]) := by decide

end Sys2Proof.Tests
end

section
/-!
The encodings both ways (spec/30_encoding.md R71, R73, R75, R77): every well-formed instruction's word decodes back to
it, whatever decodes is spelled by exactly the word read, and which descriptors spell no command.
-/

namespace Sys2Proof.Encoding

open Sys2Proof.Machine

/-! ### Status bytes -/

/-- A well-formed event is what its own status byte decodes to (R73, R80). -/
theorem decodeEventWith_of_wellFormed {p : Params} {c : Byte → EventClass} {i : Instr} {b : Byte}
    (hb : encode p i = .event b) (hi : WellFormedWith p c i = true) : decodeEventWith c b = i := by
  cases i <;> cases hb
  case other =>
    simp [WellFormedWith, namedOtherCodes] at hi
    simp [decodeEventWith, otherRow, hi]
  all_goals
    simp [WellFormedWith] at hi
    simp [decodeEventWith, otherRow, hi]

/-- The row of class OTHER a status byte falls into is one whose code it has (R80). -/
theorem wellFormedWith_otherRow {p : Params} {c : Byte → EventClass} {b : Byte} (hc : c b = .other) :
    WellFormedWith p c (otherRow b) = true := by
  unfold otherRow
  split_ifs <;> simp_all [WellFormedWith, namedOtherCodes]

/-- What a status byte decodes to is well-formed (R73, R80). -/
theorem wellFormedWith_decodeEventWith (p : Params) (c : Byte → EventClass) (b : Byte) :
    WellFormedWith p c (decodeEventWith c b) = true := by
  unfold decodeEventWith
  cases hc : c b with
  | other => exact wellFormedWith_otherRow hc
  | _ => simp [WellFormedWith, hc]

/-! ### Control words -/

/-- A control word's byte reads back under the word's own name, but for CW_HOLD's (R75). -/
theorem decodeControl_of_encode {p : Params} {i : Instr} {w : Byte} (hw : encode p i = .control w)
    (hne : i ≠ .cwHold) : decodeControl w = .ok i := by
  cases i <;> cases hw
  case cwHold => exact absurd rfl hne
  all_goals decide

/-- CW_HOLD's byte is CW_ARM's and reads as CW_ARM (R75, log entry 13). -/
theorem decodeControl_hold : decodeControl (controlByte .hold) = .ok .cwArm := by decide

/-- A byte that reads as a control word is that word's byte. -/
theorem encode_of_decodeControl {p : Params} {c : Byte → EventClass} {w : Byte} {i : Instr}
    (h : decodeControl w = .ok i) : WellFormedWith p c i = true ∧ encode p i = .control w := by
  unfold decodeControl at h
  split_ifs at h with hw hw hw hw hw <;> cases h
  all_goals exact ⟨rfl, congrArg Encoded.control hw.symm⟩

/-! ### Command descriptors -/

/-- A well-formed command's descriptor decodes to the command (R71, R77). -/
theorem decodeCommand_of_wellFormed {p : Params} {c : Byte → EventClass} {i : Instr} {d : Nat}
    (hd : encode p i = .command d) (hi : WellFormedWith p c i = true) : decodeCommand p d = .ok i := by
  have z : (0 : Nat) < 2 ^ p.cntW := Nat.two_pow_pos _
  cases i <;> cases hd <;> simp only [WellFormedWith, fits, Bool.and_eq_true, decide_eq_true_eq] at hi
  case init => exact decodeCommand_packInit hi.1 hi.2
  case write => exact decodeCommand_packTransaction _ ⟨by decide, hi.2, z, hi.1⟩ (by decide) (fun _ => rfl)
  case read => exact decodeCommand_packTransaction _ ⟨by decide, hi.2, z, hi.1⟩ (by decide) (fun _ => rfl)
  case writeRead =>
    obtain ⟨⟨hb, hw⟩, hr⟩ := hi
    exact decodeCommand_packTransaction _ ⟨by decide, hw, hr, hb⟩ (by decide) (fun h => absurd rfl h)
  case isBusy => exact (decodeCommand_query p).1
  case getStatus => exact (decodeCommand_query p).2
  case reservedOp6 => exact (decodeCommand_reserved hi).1
  case reservedOp7 => exact (decodeCommand_reserved hi).2

/-- The bits above a reserved `op` fit the rest of a descriptor (R77). -/
theorem rest_lt {p : Params} {d : Nat} (hd : d < 2 ^ p.descriptorBits) : d / 2 ^ 3 < 2 ^ (p.descriptorBits - 3) := by
  have hw : 3 ≤ p.descriptorBits := le_trans (by simp [Params.initBits]; omega) (Nat.le_max_right _ _)
  rwa [Nat.div_lt_iff_lt_mul (by decide), ← pow_add, Nat.sub_add_cancel hw]

/-- A transaction the decoder reads is well-formed and spelled by the descriptor read (R71). -/
theorem encode_of_decodeTransaction {p : Params} {c : Byte → EventClass} {d : Nat} {i : Instr}
    (hz : bitField d 3 5 = 0) (hop : bitField d 0 3 = 1 ∨ bitField d 0 3 = 2 ∨ bitField d 0 3 = 3)
    (h : decodeTransaction p d = .ok i) : WellFormedWith p c i = true ∧ encode p i = .command d := by
  obtain ⟨h15, htop, hcase⟩ := decodeTransaction_ok h
  have hpack := packTransaction_fields hz h15 htop
  obtain ⟨h3, rfl⟩ | ⟨hl, ⟨h1, rfl⟩ | ⟨h1, h3, rfl⟩⟩ := hcase
  · rw [h3] at hpack
    exact ⟨by simp [WellFormedWith, fits, bitField_lt], congrArg Encoded.command hpack⟩
  · rw [h1, hl] at hpack
    exact ⟨by simp [WellFormedWith, fits, bitField_lt], congrArg Encoded.command hpack⟩
  · have h2 : bitField d 0 3 = 2 := by omega
    rw [h2, hl] at hpack
    exact ⟨by simp [WellFormedWith, fits, bitField_lt], congrArg Encoded.command hpack⟩

/-- A command the decoder reads is well-formed and spelled by the descriptor read (R71, R77). -/
theorem encode_of_decodeCommand {p : Params} {c : Byte → EventClass} {d : Nat} {i : Instr}
    (h : decodeCommand p d = .ok i) : WellFormedWith p c i = true ∧ encode p i = .command d := by
  obtain ⟨hd, h⟩ := decodeCommand_ok h
  have hsplit := descriptor_split d
  obtain ⟨h6, rfl⟩ | ⟨h7, rfl⟩ | ⟨hz, ⟨h0, htop, rfl⟩ | ⟨h4, htop, rfl⟩ | ⟨h5, htop, rfl⟩ | ⟨hop, h⟩⟩ := decodeOp_ok h
  · rw [h6] at hsplit
    exact ⟨by simpa [WellFormedWith, fits] using rest_lt hd, congrArg Encoded.command hsplit.symm⟩
  · rw [h7] at hsplit
    exact ⟨by simpa [WellFormedWith, fits] using rest_lt hd, congrArg Encoded.command hsplit.symm⟩
  · exact ⟨by simp [WellFormedWith, fits, bitField_lt], congrArg Encoded.command (packInit_fields h0 hz htop)⟩
  · exact ⟨rfl, congrArg Encoded.command (h4.symm.trans (query_fields hz htop).symm)⟩
  · exact ⟨rfl, congrArg Encoded.command (h5.symm.trans (query_fields hz htop).symm)⟩
  · exact encode_of_decodeTransaction hz hop h

/-- A descriptor that spells no command: a reserved `op`, or a nonzero must-be-zero bit of its `op`'s layout (R71,
R77). -/
def Illegal (p : Params) (d : Nat) : Prop :=
  6 ≤ bitField d 0 3 ∨ bitField d 3 5 ≠ 0 ∨ (bitField d 0 3 = 0 ∧ d / 2 ^ p.initBits ≠ 0) ∨
  ((bitField d 0 3 = 4 ∨ bitField d 0 3 = 5) ∧ d / 2 ^ 8 ≠ 0) ∨
  ((bitField d 0 3 = 1 ∨ bitField d 0 3 = 2 ∨ bitField d 0 3 = 3) ∧
    (bitField d 15 1 ≠ 0 ∨ d / 2 ^ p.transactionBits ≠ 0)) ∨
  ((bitField d 0 3 = 1 ∨ bitField d 0 3 = 2) ∧ bitField d p.len1At p.cntW ≠ 0)

/-- The transactions the decoder does not read: a must-be-zero bit is set. -/
theorem decodeTransaction_error {p : Params} {d : Nat} {e : DecodeError} (h : decodeTransaction p d = .error e) :
    bitField d 15 1 ≠ 0 ∨ d / 2 ^ p.transactionBits ≠ 0 ∨
      bitField d 0 3 ≠ 3 ∧ bitField d p.len1At p.cntW ≠ 0 := by
  simp only [decodeTransaction] at h
  split_ifs at h with h15 htop h3 hlen
  · exact .inl h15
  · exact .inr (.inl htop)
  · exact .inr (.inr ⟨h3, hlen⟩)

/-- The decoder reports an error only for an illegal descriptor. -/
theorem illegal_of_decodeOp_error {p : Params} {d : Nat} {e : DecodeError} (h : decodeOp p d = .error e) :
    Illegal p d := by
  have hop := bitField_lt d 0 3
  have htx := @decodeTransaction_error p d e
  unfold Illegal
  simp only [decodeOp] at h
  generalize decodeTransaction p d = r at h htx
  split_ifs at h with h6 h7 hz h0 hi h4 hq h5 hq
  · exact .inr (.inl hz)
  · exact .inr (.inr (.inl ⟨h0, hi⟩))
  · exact .inr (.inr (.inr (.inl ⟨.inl h4, hq⟩)))
  · exact .inr (.inr (.inr (.inl ⟨.inr h5, hq⟩)))
  · have hbits := htx h
    omega

/-- An illegal descriptor is read as a reserved command or not at all. -/
theorem reserved_of_illegal {p : Params} {d : Nat} {i : Instr} (hd : Illegal p d) (h : decodeCommand p d = .ok i) :
    ∃ rest, i = .reservedOp6 rest ∨ i = .reservedOp7 rest := by
  unfold Illegal at hd
  obtain ⟨-, rfl⟩ | ⟨-, rfl⟩ | ⟨hz, ⟨h0, htop, -⟩ | ⟨h4, htop, -⟩ | ⟨h5, htop, -⟩ | ⟨hop, h⟩⟩ :=
    decodeOp_ok (decodeCommand_ok h).2
  · exact ⟨_, .inl rfl⟩
  · exact ⟨_, .inr rfl⟩
  · omega
  · omega
  · omega
  · obtain ⟨h15, htop, hcase⟩ := decodeTransaction_ok h
    omega

/-- A legal descriptor is read as a command that is not reserved. -/
theorem decodeCommand_of_legal {p : Params} {d : Nat} (hlen : d < 2 ^ p.descriptorBits) (hd : ¬ Illegal p d) :
    ∃ i, decodeCommand p d = .ok i ∧ ∀ rest, i ≠ .reservedOp6 rest ∧ i ≠ .reservedOp7 rest := by
  cases h : decodeOp p d with
  | error e => exact absurd (illegal_of_decodeOp_error h) hd
  | ok i =>
    have hi : decodeCommand p d = .ok i := by rw [decodeCommand, if_pos hlen, h]
    refine ⟨i, hi, fun rest => ?_⟩
    have henc := (encode_of_decodeCommand (c := classify) hi).2
    have hlow : ¬ 6 ≤ bitField d 0 3 := fun k => hd (.inl k)
    constructor <;> rintro rfl <;> cases henc
    · exact hlow (bitField_head rest (by decide)).ge
    · exact hlow ((bitField_head rest (by decide)).ge.trans' (by decide))

/-- Running an illegal descriptor is refused (R77, log entry 19). -/
theorem runDescriptor_illegal {d : Nat} {s : State} (hd : Illegal s.params d) :
    runDescriptor d s = .refused .illegalCommand := by
  unfold runDescriptor
  split
  · next h => obtain ⟨rest, rfl | rfl⟩ := reserved_of_illegal hd h <;> rfl
  · rfl

end Sys2Proof.Encoding
end

section
/-!
The host's turn (spec/40_host_commands.md R90, 70_reset_and_hazards.md R198): which operation the step then is. The
statements about the encoding are settled after it.
-/

namespace Sys2Proof.Turn

open Sys2Proof.Machine

theorem step_host {s : State} {r : List Agent} (h : s.schedule = .host :: r) :
    step s = hostStep { s with schedule := r } := by
  rw [step, stepWith, nextAgent_cons h]; rfl

/-- On the host's turn the presented descriptor is run (R90). -/
theorem step_presented {s : State} {r : List Agent} {d : Nat} (h : s.schedule = .host :: r)
    (hp : s.presented = some d) : step s = runDescriptor d { s with schedule := r } := by
  rw [step_host h, hostStep, show ({ s with schedule := r } : State).presented = some d from hp]

/-- On the host's turn with nothing presented, the script's load is done (R198). -/
theorem step_load {s : State} {r : List Agent} {hs : List HostAction} {a : Nat} (h : s.schedule = .host :: r)
    (hp : s.presented = none) (hh : s.hostScript = .load a :: hs) :
    step s = hostLoad a { s with schedule := r, hostScript := hs } := by
  rw [step_host h]; simp only [hostStep, hp, hh]

/-- On the host's turn with nothing presented, the script's store is done (R198). -/
theorem step_store {s : State} {r : List Agent} {hs : List HostAction} {a : Nat} {v : Byte}
    (h : s.schedule = .host :: r) (hp : s.presented = none) (hh : s.hostScript = .store a v :: hs) :
    step s = hostStore a v { s with schedule := r, hostScript := hs } := by
  rw [step_host h]; simp only [hostStep, hp, hh]

end Sys2Proof.Turn

namespace Sys2Proof

open Sys2Proof.Machine Sys2Proof.Encoding Sys2Proof.Turn

/-- Settles O1, format by format: each decoder undoes the encoding of a well-formed instruction. -/
theorem decodeOfEncode : Obligations.DecodeOfEncode := by
  refine ⟨fun p c i hi hne => ?_, fun p c => decodeControl_hold⟩
  cases he : encode p i with
  | command d => exact decodeCommand_of_wellFormed he hi
  | event b => exact congrArg Except.ok (decodeEventWith_of_wellFormed he hi)
  | control w => exact decodeControl_of_encode he hne

/-- Settles O2, format by format: what each decoder reads is spelled by the input it read. -/
theorem encodeOfDecode : Obligations.EncodeOfDecode := by
  intro p c e i h
  cases e with
  | command d => exact encode_of_decodeCommand h
  | event b =>
    cases h
    exact ⟨wellFormedWith_decodeEventWith p c b, encode_decodeEventWith p c b⟩
  | control w => exact encode_of_decodeControl h

/-- Settles O4: the statement's condition is `Illegal`, which the decoder answers with an error or a reserved `op`. -/
theorem illegalDescriptorsAreRefused : Obligations.IllegalDescriptorsAreRefused := by
  intro d s r hp hs hlen op illegal
  have e : 16 + s.params.cntW + s.params.cntW + s.params.addrW = 16 + 2 * s.params.cntW + s.params.addrW := by omega
  have hiff : illegal ↔ Illegal s.params d := by
    simp only [illegal, op, Illegal, bitField, Params.initBits, Params.transactionBits, Params.len1At, e, pow_zero,
      Nat.div_one, pow_one, show (2 : Nat) ^ 3 = 8 from rfl]
  refine ⟨fun h => ?_, fun h => ?_⟩
  · rw [step_presented hs hp]
    exact runDescriptor_illegal (hiff.mp h)
  · refine decodeCommand_of_legal ?_ (mt hiff.mpr h)
    simpa only [Params.descriptorBits, Params.transactionBits, Params.initBits, e] using hlen

end Sys2Proof
end

section
/-!
What every step keeps (spec/00_scope.md R8, R11, R163): the widths of the build and every register inside its width, and
the sticky fault set. Each is a lemma about `Effect`, carried to the step.
-/

namespace Sys2Proof.Kept

open Sys2Proof.Machine Sys2Proof.Safety

/-- What `TxAdvance` leaves alone (R117). -/
theorem txAdvance_frame (s : State) :
    txAdvance s =
      { s with
        ta := (txAdvance s).ta, wptr := (txAdvance s).wptr, wcnt := (txAdvance s).wcnt
        outcome := (txAdvance s).outcome, ctrl := (txAdvance s).ctrl, data := (txAdvance s).data
        port := (txAdvance s).port, trace := (txAdvance s).trace } := by
  obtain ⟨-, e⟩ | ⟨-, -, e⟩ | ⟨-, -, e⟩ := txAdvance_cases s <;> rw [e] <;> rfl

/-! ### Widths -/

/-- The operands an instruction brings into the cursors and the clock registers fit their widths (R71). -/
structure OperandsInWidth (p : Params) (i : Instr) : Prop where
  start : ∀ a wp wc rp rc, startOperands i = some (a, wp, wc, rp, rc) →
    wp < 2 ^ p.addrW ∧ wc < 2 ^ p.cntW ∧ rp < 2 ^ p.addrW ∧ rc < 2 ^ p.cntW
  init : ∀ div pre, i = .init div pre → div < 2 ^ p.divW ∧ pre < 2 ^ p.preW

theorem operandsInWidth_of_command {p : Params} {d : Nat} {i : Instr} (h : decodeCommand p d = .ok i) :
    OperandsInWidth p i where
  start _ _ _ _ _ ho := startOperands_lt h ho
  init _ _ e := initOperands_lt (e ▸ h)

/-- An event brings no operand into a register of a parametric width. -/
theorem operandsInWidth_of_event {p : Params} {i : Instr} (h : i.format = .evt) : OperandsInWidth p i where
  start _ _ _ _ _ ho := by cases i <;> cases h <;> cases ho
  init _ _ e := by cases e; cases h

/-- A written byte inside the address space keeps the listed addresses inside it. -/
theorem fitsWidths_memWrite {s : State} {a : Nat} (v : Byte) (hs : FitsWidths s) (ha : a < 2 ^ s.params.addrW) :
    FitsWidths (memWrite a v s) where
  __ := hs
  mem x u hx := by
    obtain rfl | hx := mem_memPut hx
    · exact ha
    · exact hs.mem x u hx

/-- A control write touches no register of a parametric width. -/
theorem fitsWidths_ctrlWrite {s : State} (w : CtlWord) (hs : FitsWidths s) : FitsWidths (ctrlWrite w s) where
  __ := hs

/-- Storing a received byte keeps the read cursor and memory inside their widths (R131). -/
theorem fitsWidths_storeByte {s : State} (d : Byte) (hs : FitsWidths s) : FitsWidths (storeByte d s) where
  __ := fitsWidths_memWrite d hs hs.rptr
  rptr := nextAddr_lt _ _
  rcnt := (Nat.sub_le _ _).trans_lt hs.rcnt

/-- Sending a byte keeps the write cursor inside its width (R131). -/
theorem fitsWidths_sendNextByte {s : State} (hs : FitsWidths s) : FitsWidths (sendNextByte s) where
  __ := hs
  wptr := nextAddr_lt _ _
  wcnt := (Nat.sub_le _ _).trans_lt hs.wcnt

theorem fitsWidths_armReceive {s : State} (hs : FitsWidths s) : FitsWidths (armReceive s) :=
  fitsWidths_ctrlWrite _ hs

theorem fitsWidths_txAdvance {s : State} (hs : FitsWidths s) : FitsWidths (txAdvance s) := by
  obtain ⟨-, e⟩ | ⟨-, -, e⟩ | ⟨-, -, e⟩ := txAdvance_cases s <;> rw [e]
  · exact fitsWidths_ctrlWrite .next (fitsWidths_sendNextByte hs)
  · exact { hs with }
  · exact { hs with }

/-- No instruction writes the widths (R8). -/
theorem effect_params {i : Instr} {s t : State} (he : Effect i s t) : t.params = s.params := by
  cases he with
  | advanced => rw [txAdvance_frame]
  | _ => rfl

/-- An instruction whose operands fit keeps every register inside its width. -/
theorem fitsWidths_effect {i : Instr} {s t : State} (he : Effect i s t) (hi : OperandsInWidth s.params i)
    (hs : FitsWidths s) : FitsWidths t := by
  have z := Nat.two_pow_pos
  cases he with
  | armed div pre e idle =>
    obtain ⟨hd, hp⟩ := hi.init div pre e
    exact { hs with wptr := z _, wcnt := z _, rptr := z _, rcnt := z _, clkdiv := hd, clkpre := hp }
  | accepted a wp wc rp rc htx ho =>
    obtain ⟨hwp, hwc, hrp, hrc⟩ := hi.start a wp wc rp rc ho
    exact { hs with wptr := hwp, wcnt := hwc, rptr := hrp, rcnt := hrc }
  | advanced => exact fitsWidths_txAdvance hs
  | armedReceive => exact fitsWidths_armReceive hs
  | stored => exact fitsWidths_armReceive (fitsWidths_storeByte s.data hs)
  | storedLast => exact { fitsWidths_storeByte s.data hs with }
  | unchanged | rejected | polled | answered | addressed | underflowed | retried | failed | wrote =>
    exact { hs with }

/-! ### The fault set -/

/-- Recording a fault adds it once (R11). -/
theorem recordFault_cases (f : Fault) (l : List Fault) :
    recordFault f l = l ∨ f ∉ l ∧ recordFault f l = l ++ [f] := by
  by_cases h : f ∈ l <;> simp [recordFault, h]

/-- An instruction leaves the fault set alone, or records one fault and changes nothing else but the command interface
(R12, R163). -/
theorem effect_faults {i : Instr} {s t : State} (he : Effect i s t) :
    t.faults = s.faults ∨ ∃ f, t = raise f { s with presented := t.presented, response := t.response } := by
  cases he with
  | rejected f => exact .inr ⟨f, rfl⟩
  | underflowed => exact .inr ⟨.cursorUnderflow, rfl⟩
  | advanced => rw [txAdvance_frame]; exact .inl rfl
  | _ => exact .inl rfl

/-- A step leaves the fault set alone, or records one fault and changes nothing else but the command interface and the
model's own fields (R12, R163). -/
theorem step_faults {c : Byte → EventClass} {s t : State} (h : stepWith c s = .next t) :
    t.faults = s.faults ∨
      ∃ f, t = raise f
        { s with
          presented := t.presented, response := t.response, hostScript := t.hostScript
          schedule := t.schedule, draws := t.draws } := by
  cases stepWith_effect h with
  | command sch n d hs i t hd hp he =>
    obtain h | ⟨f, h⟩ := effect_faults he
    · exact .inl h
    · exact .inr ⟨f, by rw [h]; rfl⟩
  | event sch n t he =>
    obtain h | ⟨f, h⟩ := effect_faults he
    · exact .inl h
    · exact .inr ⟨f, by rw [h]; rfl⟩
  | violated => exact .inr ⟨.borrowViolation, rfl⟩
  | idle | load | store | delivered => exact .inl rfl

end Sys2Proof.Kept

namespace Sys2Proof

open Sys2Proof.Machine Sys2Proof.Safety Sys2Proof.Kept

/-- Settles O50: the operands of what a step runs fit their widths, and every effect of it keeps the registers' bounds. -/
theorem stepKeepsWidths : Obligations.StepKeepsWidths := by
  intro c s t hs h
  cases stepWith_effect h with
  | command sch n d hs' i t hd hp he =>
    have hpar := effect_params he
    exact ⟨hpar, fitsWidths_effect he (operandsInWidth_of_command hd) { hs with }⟩
  | event sch n t he =>
    have hpar := effect_params he
    have hi := operandsInWidth_of_event (p := s.params) (format_decodeEventWith c s.status)
    exact ⟨hpar, fitsWidths_effect he hi { hs with }⟩
  | store sch n hs' a v hp hr ha => exact ⟨rfl, { fitsWidths_memWrite v hs ha with }⟩
  | idle | violated | load | delivered => exact ⟨rfl, { hs with }⟩

/-- Settles O51: a step's one way to change the fault set is `raise`, which adds a fault that is not yet in it. -/
theorem faultsAreSticky : Obligations.FaultsAreSticky := by
  intro c s t h
  obtain h | ⟨f, h⟩ := step_faults h
  · exact .inl h
  · have hf : t.faults = recordFault f s.faults := congrArg State.faults h
    obtain e | ⟨hnew, e⟩ := recordFault_cases f s.faults
    · exact .inl (hf.trans e)
    · refine .inr ⟨f, hnew, hf.trans e, ?_⟩
      rw [hf]
      exact h

/-- Settles O28: each effect of an instruction changes only registers the instruction is listed for. -/
theorem registersHaveOnlyTheirWriters : Obligations.RegistersHaveOnlyTheirWriters := by
  intro i s t h
  cases exec_effect h with
  | unchanged | wrote | retried => simp
  | armedReceive => simp [armReceive]
  | rejected f hi =>
    obtain ⟨⟨div, pre, rfl⟩, -⟩ | ⟨hi, -⟩ := hi
    · simp
    · simp [hi]
  | armed div pre hi => simp [hi]
  | accepted a wp wc rp rc hi => simp [started, hi]
  | polled hi => simp [hi]
  | answered b n hi => simp
  | addressed hi => simp [sendAddress, hi]
  | advanced hi => rw [txAdvance_frame]; simp [hi]
  | underflowed hi => simp [hi]
  | stored b hi => simp [armReceive, hi, isReceiveEvent]
  | storedLast b hi => simp [finishSuccess, hi, isReceiveEvent]
  | failed b hi => simp [endWithError, hi]

end Sys2Proof
end

section
/-!
The host's accesses to buffer memory beside the borrow (spec/20_memory.md R50, R55) and what INIT and the three
transaction commands answer (spec/40_host_commands.md R90 to R95).
-/

namespace Sys2Proof.HostTurn

open Sys2Proof.Machine

/-! ### Loads and stores -/

/-- What the borrow forbids of a load: an address of the lent read region (R55). -/
theorem lentOut_forbidsLoad {s : State} {a : Nat} :
    lentOut (fun b => b.forbidsLoad a) s = true ↔ ∃ b, s.borrow = some b ∧ b.rbase ≤ a ∧ a < b.rbase + b.rlen := by
  rw [← Bool.not_eq_false, lentOut_false]
  simp [Borrow.forbidsLoad, inRegion]

/-- What the borrow forbids of a store: an address of either lent region (R55). -/
theorem lentOut_forbidsStore {s : State} {a : Nat} :
    lentOut (fun b => b.forbidsStore a) s = true ↔
      (∃ b, s.borrow = some b ∧ b.rbase ≤ a ∧ a < b.rbase + b.rlen) ∨
        ∃ b, s.borrow = some b ∧ b.wbase ≤ a ∧ a < b.wbase + b.wlen := by
  unfold lentOut
  cases s.borrow <;> simp [Borrow.forbidsStore, inRegion_iff]

section
variable {a : Nat} {v : Byte} {s : State}

/-- A load at a number that is no address ends the run (R50, log entry 15). -/
theorem hostLoad_noSuchAddress (h : 2 ^ s.params.addrW ≤ a) : hostLoad a s = .fault .noSuchAddress := by
  simp [hostLoad, addrExists, h]

/-- A store at a number that is no address ends the run (R50, log entry 15). -/
theorem hostStore_noSuchAddress (h : 2 ^ s.params.addrW ≤ a) : hostStore a v s = .fault .noSuchAddress := by
  simp [hostStore, addrExists, h]

theorem hostLoad_lent (h : a < 2 ^ s.params.addrW) (hl : lentOut (fun b => b.forbidsLoad a) s = true) :
    hostLoad a s = .next (raise .borrowViolation s) := by
  simp [hostLoad, addrExists, h, hl]

theorem hostLoad_allowed (h : a < 2 ^ s.params.addrW) (hl : ¬ lentOut (fun b => b.forbidsLoad a) s = true) :
    hostLoad a s = .next { s with hostByte := some (memRead s a) } := by
  simp [hostLoad, addrExists, h, hl]

theorem hostStore_lent (h : a < 2 ^ s.params.addrW) (hl : lentOut (fun b => b.forbidsStore a) s = true) :
    hostStore a v s = .next (raise .borrowViolation s) := by
  simp [hostStore, addrExists, h, hl]

theorem hostStore_allowed (h : a < 2 ^ s.params.addrW) (hl : ¬ lentOut (fun b => b.forbidsStore a) s = true) :
    hostStore a v s = .next (memWrite a v s) := by
  simp [hostStore, addrExists, h, hl]

end

/-! ### Transaction commands -/

section
variable {a : Byte} {wp wc rp rc : Nat} {s : State}

/-- In flight a transaction command is held (R90). -/
theorem start_held (hb : s.ctrl.ie = true) : interlock s (startTransaction a wp wc rp rc s) = .next s :=
  interlock_held hb

/-- Before INIT a transaction command records NotInitialized, whatever its regions (R92, log entry 14). -/
theorem start_notInitialized (hb : s.ctrl.ie = false) (he : s.ctrl.en = false) :
    interlock s (startTransaction a wp wc rp rc s) = .next (rejectCommand .notInitialized s) := by
  rw [interlock_idle hb]
  simp [startTransaction, he]

/-- A region over the top of the address space is BufferWrap (R62, R92). -/
theorem start_bufferWrap (hb : s.ctrl.ie = false) (he : s.ctrl.en = true)
    (hw : 2 ^ s.params.addrW < wp + wc ∨ 2 ^ s.params.addrW < rp + rc) :
    interlock s (startTransaction a wp wc rp rc s) = .next (rejectCommand .bufferWrap s) := by
  rw [interlock_idle hb]
  simp [startTransaction, he, regionWraps, hw]

/-- On an idle armed block, with both regions inside the address space, the transaction starts (R92). -/
theorem start_accepted (hb : s.ctrl.ie = false) (he : s.ctrl.en = true) (hw : wp + wc ≤ 2 ^ s.params.addrW)
    (hr : rp + rc ≤ 2 ^ s.params.addrW) :
    interlock s (startTransaction a wp wc rp rc s) = .next (started a wp wc rp rc s) := by
  rw [interlock_idle hb, startTransaction_armed he (regionWraps_false.mpr hw) (regionWraps_false.mpr hr)]

end

end Sys2Proof.HostTurn

namespace Sys2Proof

open Sys2Proof.Machine Sys2Proof.Turn Sys2Proof.HostTurn

/-- Settles O34: the step is the load or store itself, which asks for the address and then for the borrow. -/
theorem hostAccessRespectsTheBorrow : Obligations.HostAccessRespectsTheBorrow := by
  intro s r hs a v hsch hp lentToRead lentToWrite violation
  constructor
  · intro hh
    have hstep := step_load hsch hp hh
    refine ⟨fun ha => ?_, fun ha hl => ?_, fun ha hl => ?_⟩
    · exact hstep.trans (hostLoad_noSuchAddress ha)
    · exact hstep.trans (hostLoad_lent ha (lentOut_forbidsLoad.mpr hl))
    · exact hstep.trans (hostLoad_allowed ha (mt lentOut_forbidsLoad.mp hl))
  · intro hh
    have hstep := step_store hsch hp hh
    refine ⟨fun ha => ?_, fun ha hl => ?_, fun ha hr hw => ?_⟩
    · exact hstep.trans (hostStore_noSuchAddress ha)
    · exact hstep.trans (hostStore_lent ha (lentOut_forbidsStore.mpr hl))
    · have hallowed := mt lentOut_forbidsStore.mp (not_or.mpr ⟨hr, hw⟩)
      refine ⟨_, hstep.trans (hostStore_allowed ha hallowed), ?_, fun x hx => ?_, rfl⟩
      · rw [memRead_memWrite, if_pos rfl]
      · rw [memRead_memWrite, if_neg hx]
        rfl

/-- Settles O8, by whether a transaction is in flight. -/
theorem initArmsTheIdleBlock : Obligations.InitArmsTheIdleBlock := by
  intro div pre s
  constructor
  · intro hb
    refine ⟨portLatch .arm s.port, rfl, rfl, ?_⟩
    simp [exec, execInit, busy, hb, ctrlWrite, accept, controlFields]
  · intro hb
    simp [exec, execInit, busy, hb, rejectCommand, raise, accept]

/-- Settles O9: WRITE is a start with nothing to receive. -/
theorem writeStartsTransaction : Obligations.WriteStartsTransaction := fun _ _ _ s =>
  ⟨fun hb he hw => ⟨portLatch .start s.port, rfl, rfl, start_accepted hb he hw (Nat.zero_le _)⟩,
    start_held, start_notInitialized, fun hb he hw => start_bufferWrap hb he (.inl hw)⟩

/-- Settles O10: READ is a start with nothing to send. -/
theorem readStartsTransaction : Obligations.ReadStartsTransaction := fun _ _ _ s =>
  ⟨fun hb he hr => ⟨portLatch .start s.port, rfl, rfl, start_accepted hb he (Nat.zero_le _) hr⟩,
    start_held, start_notInitialized, fun hb he hr => start_bufferWrap hb he (.inr hr)⟩

/-- Settles O11: WRITEREAD is a start with both regions on one buffer. -/
theorem writeReadStartsTransaction : Obligations.WriteReadStartsTransaction := fun _ _ _ _ s =>
  ⟨fun hb he hw hr => ⟨portLatch .start s.port, rfl, rfl, start_accepted hb he hw hr⟩,
    start_held, start_notInitialized, start_bufferWrap⟩

end Sys2Proof
end

section
/-!
What every step keeps of the transaction and its port (spec/10_state.md R31, R36, R37, spec/20_memory.md R55, R62): the
invariants I1, I2, I3 and I7, CTRL as the last control word, the cursors inside the lent regions, the counts. Each is a
lemma about `Effect`, carried to the step.
-/

namespace Sys2Proof.Invariants

open Sys2Proof.Machine Sys2Proof.Safety Sys2Proof.Kept

/-! ### Control words -/

/-- Every control word enables the port (R75). -/
theorem controlFields_en (w : CtlWord) : (controlFields w).en = true := by cases w <;> rfl

/-- No control word requests a STOP and keeps the transaction in flight (R75). -/
theorem controlFields_ie_of_sto {w : CtlWord} (h : (controlFields w).sto = true) : (controlFields w).ie = false := by
  cases w with
  | stop => rfl
  | _ => cases h

/-- A control write never sets `iflag` (R141). -/
theorem iflag_of_ctrlWrite {w : CtlWord} {s : State} (h : (ctrlWrite w s).ctrl.iflag = true) :
    s.ctrl.iflag = true := by
  simp only [ctrlWrite_ctrl] at h
  split at h
  · cases h
  · exact h

/-- `TxAdvance` ends in a control write (R112, R117). -/
theorem txAdvance_ctrlWrite (s : State) : ∃ w u, txAdvance s = ctrlWrite w u ∧ u.ctrl = s.ctrl := by
  obtain ⟨-, e⟩ | ⟨-, -, e⟩ | ⟨-, -, e⟩ := txAdvance_cases s <;> rw [e] <;> exact ⟨_, _, rfl, rfl⟩

/-- An instruction leaves CTRL, the port and the trace alone, or its last act is a control write of a state that still
has the old CTRL (R112, R141). -/
theorem effect_ctrlWrite {i : Instr} {s t : State} (he : Effect i s t) :
    (t.ctrl = s.ctrl ∧ t.port = s.port ∧ t.trace = s.trace) ∨ ∃ w u, t = ctrlWrite w u ∧ u.ctrl = s.ctrl := by
  cases he with
  | unchanged | rejected | polled | answered | underflowed => exact .inl ⟨rfl, rfl, rfl⟩
  | advanced => exact .inr (txAdvance_ctrlWrite s)
  | armed | accepted | addressed | armedReceive | stored | storedLast | retried | failed | wrote =>
    exact .inr ⟨_, _, rfl, rfl⟩

/-- No instruction writes STATUS (R33). -/
theorem effect_status {i : Instr} {s t : State} (he : Effect i s t) : t.status = s.status := by
  cases he with
  | advanced => rw [txAdvance_frame]
  | _ => rfl

/-- The last control word of a trace is the one just appended. -/
theorem lastWord_append_ctl (l : List PortItem) (w : CtlWord) : lastWord (l ++ [.ctl w]) = some w := by
  simp [lastWord, controlWords_append, controlWords]

/-- After a control write CTRL is that word, whatever it was before (R141). -/
theorem ctrlIsLastWord_ctrlWrite (w : CtlWord) (s : State) : CtrlIsLastWord (ctrlWrite w s) := by
  unfold CtrlIsLastWord
  rw [ctrlWrite_trace, lastWord_append_ctl]
  exact ⟨rfl, rfl, rfl, rfl, rfl, rfl, rfl⟩

/-- Every instruction keeps CTRL equal to the last control word. -/
theorem ctrlIsLastWord_effect {i : Instr} {s t : State} (he : Effect i s t) (hs : CtrlIsLastWord s) :
    CtrlIsLastWord t := by
  obtain ⟨hctrl, hport, htrace⟩ | ⟨w, u, rfl, -⟩ := effect_ctrlWrite he
  · unfold CtrlIsLastWord
    rw [hctrl, hport, htrace]
    exact hs
  · exact ctrlIsLastWord_ctrlWrite w u

/-! ### I1, I2, I3 and I7 -/

/-- A control write meets the invariants if its word goes on with a transaction exactly while the outcome is Busy, or
Busy has no transaction behind it (R36 I1, I2); I3 and I7 hold of every word. -/
theorem inv_ctrlWrite {w : CtlWord} {s : State} (inFlight : (controlFields w).ie = true → s.outcome = .busy)
    (started : .ctl .start ∈ s.trace ++ [.ctl w] → s.outcome = .busy → (controlFields w).ie = true) :
    Inv (ctrlWrite w s) where
  busyWhileInFlight := inFlight
  inFlightWhileBusy := started
  enabledOnceArmed _ := controlFields_en w
  stopOnlyWhenIdle := controlFields_ie_of_sto

/-- A word with `ie = 1`, written while the outcome is Busy. -/
theorem inv_ctrlWrite_busy {w : CtlWord} {s : State} (hw : (controlFields w).ie = true) (hs : s.outcome = .busy) :
    Inv (ctrlWrite w s) :=
  inv_ctrlWrite (fun _ => hs) (fun _ _ => hw)

/-- A terminal step: the outcome has its final value and the word ends the transaction (R133). -/
theorem inv_ctrlWrite_over {w : CtlWord} {s : State} (hw : (controlFields w).ie = false) (hs : s.outcome ≠ .busy) :
    Inv (ctrlWrite w s) :=
  inv_ctrlWrite (fun h => by rw [hw] at h; cases h) (fun _ h => absurd h hs)

theorem inv_finishSuccess (s : State) : Inv (finishSuccess s) := inv_ctrlWrite_over rfl nofun

theorem inv_armReceive {s : State} (hs : s.outcome = .busy) : Inv (armReceive s) := by
  obtain ⟨-, e⟩ | ⟨-, e⟩ := armReceive_cases s <;> rw [e] <;> exact inv_ctrlWrite_busy rfl hs

theorem inv_txAdvance {s : State} (hs : s.outcome = .busy) : Inv (txAdvance s) := by
  obtain ⟨-, e⟩ | ⟨-, -, e⟩ | ⟨-, -, e⟩ := txAdvance_cases s <;> rw [e]
  · exact inv_ctrlWrite_busy rfl hs
  · exact inv_ctrlWrite_busy rfl hs
  · exact inv_finishSuccess s

/-- A serviced event finds the outcome Busy (R36 I1, R110). -/
theorem outcome_of_eventEnabled {s : State} (hs : Inv s) (en : eventEnabled s = true) : s.outcome = .busy :=
  hs.busyWhileInFlight (eventEnabled_iff.mp en).2

/-- Every command and every event keeps the invariants. -/
theorem inv_effect {i : Instr} {s t : State} (he : Effect i s t) (hi : i.format ≠ .ctl) (hs : Inv s) : Inv t := by
  cases he with
  | unchanged | rejected | polled | answered | underflowed => exact { hs with }
  | armed div pre e idle =>
    refine inv_ctrlWrite nofun fun hstart hbusy => ?_
    have hflight := hs.inFlightWhileBusy (by simpa using hstart) hbusy
    exact absurd (hflight.symm.trans idle) nofun
  | accepted => exact inv_ctrlWrite_busy rfl rfl
  | addressed hev en =>
    have hbusy := outcome_of_eventEnabled hs en
    exact inv_ctrlWrite_busy rfl hbusy
  | retried b hev en => exact inv_ctrlWrite_busy rfl (outcome_of_eventEnabled hs en)
  | advanced hev en => exact inv_txAdvance (outcome_of_eventEnabled hs en)
  | armedReceive b hev en => exact inv_armReceive (outcome_of_eventEnabled hs en)
  | stored b hev en =>
    have hbusy := outcome_of_eventEnabled hs en
    exact inv_armReceive hbusy
  | storedLast => exact inv_finishSuccess _
  | failed => exact inv_ctrlWrite_over rfl nofun
  | wrote w hctl => exact absurd hctl hi

/-! ### The cursors and the lent regions -/

/-- A region that does not wrap has its cursor at its base (R62). -/
theorem cursorOn_base {w base len : Nat} (hw : regionWraps w base len = false) (hb : base < 2 ^ w) :
    cursorOn w base len base len :=
  ⟨regionWraps_false.mp hw, le_rfl, by rw [Nat.sub_self, Nat.add_zero, Nat.mod_eq_of_lt hb]⟩

/-- Pointer and count move together, over the top of the address space too (R131). -/
theorem cursorOn_next {w base len ptr cnt : Nat} (h : cursorOn w base len ptr cnt) (hc : cnt ≠ 0) :
    cursorOn w base len (nextAddr w ptr) (cnt - 1) := by
  obtain ⟨hfit, hcnt, rfl⟩ := h
  refine ⟨hfit, by omega, ?_⟩
  rw [nextAddr_mod, show base + (len - cnt) + 1 = base + (len - (cnt - 1)) by omega]

/-- A control write inside a transaction moves no cursor. -/
theorem cursorsInBorrow_ctrlWrite {s : State} (w : CtlWord) (hf : s.ctrl.ie = true) (hs : CursorsInBorrow s) :
    CursorsInBorrow (ctrlWrite w s) := fun _ => hs hf

/-- A state that is idle has no cursor to keep in a region. -/
theorem cursorsInBorrow_idle {s : State} (h : s.ctrl.ie = false) : CursorsInBorrow s := fun hf => by
  rw [h] at hf; cases hf

/-- Sending a byte advances the write cursor inside its region. -/
theorem cursorsInBorrow_sendNextByte {s : State} (hs : CursorsInBorrow s) (hc : s.wcnt ≠ 0) :
    CursorsInBorrow (sendNextByte s) := fun hf => by
  obtain ⟨b, hb, hw, hr⟩ := hs hf
  exact ⟨b, hb, cursorOn_next hw hc, hr⟩

/-- Storing a byte advances the read cursor inside its region. -/
theorem cursorsInBorrow_storeByte {s : State} (d : Byte) (hs : CursorsInBorrow s) (hc : s.rcnt ≠ 0) :
    CursorsInBorrow (storeByte d s) := fun hf => by
  obtain ⟨b, hb, hw, hr⟩ := hs hf
  exact ⟨b, hb, hw, cursorOn_next hr hc⟩

theorem cursorsInBorrow_txAdvance {s : State} (hf : s.ctrl.ie = true) (hs : CursorsInBorrow s) :
    CursorsInBorrow (txAdvance s) := by
  obtain ⟨hc, e⟩ | ⟨-, -, e⟩ | ⟨-, -, e⟩ := txAdvance_cases s <;> rw [e]
  · exact cursorsInBorrow_ctrlWrite .next hf (cursorsInBorrow_sendNextByte hs hc)
  · exact fun _ => hs hf
  · exact cursorsInBorrow_idle rfl

/-- The host's seeing idle ends a borrow only when no transaction is in flight (R55, R58). -/
theorem cursorsInBorrow_observeIdle {s : State} (hs : CursorsInBorrow s) : CursorsInBorrow (observeIdle s) := by
  intro hf
  have hb : busy s = true := hf
  simpa [observeIdle, hb] using hs hf

/-- Every command whose operands fit, and every event, keeps the cursors inside the lent regions. -/
theorem cursorsInBorrow_effect {i : Instr} {s t : State} (he : Effect i s t) (hi : i.format ≠ .ctl)
    (hops : OperandsInWidth s.params i) (hs : CursorsInBorrow s) : CursorsInBorrow t := by
  cases he with
  | unchanged | rejected | answered | underflowed => exact hs
  | polled => exact cursorsInBorrow_observeIdle (s := accept (some (busyBit s)) s) hs
  | armed | storedLast | failed => exact cursorsInBorrow_idle rfl
  | accepted a wp wc rp rc htx ho idle en hw hr =>
    obtain ⟨hwp, -, hrp, -⟩ := hops.start a wp wc rp rc ho
    exact fun _ => ⟨_, rfl, cursorOn_base hw hwp, cursorOn_base hr hrp⟩
  | addressed hev en => exact fun _ => hs (eventEnabled_iff.mp en).2
  | retried b hev en => exact cursorsInBorrow_ctrlWrite .start (eventEnabled_iff.mp en).2 hs
  | advanced hev en => exact cursorsInBorrow_txAdvance (eventEnabled_iff.mp en).2 hs
  | armedReceive b hev en => exact cursorsInBorrow_ctrlWrite _ (eventEnabled_iff.mp en).2 hs
  | stored b hev en room =>
    exact cursorsInBorrow_ctrlWrite _ (eventEnabled_iff.mp en).2 (cursorsInBorrow_storeByte s.data hs room)
  | wrote w hctl => exact absurd hctl hi

/-! ### The counts -/

theorem txAdvance_counts (s : State) : (txAdvance s).wcnt ≤ s.wcnt ∧ (txAdvance s).rcnt = s.rcnt := by
  obtain ⟨-, e⟩ | ⟨-, -, e⟩ | ⟨-, -, e⟩ := txAdvance_cases s <;> rw [e]
  · exact ⟨Nat.sub_le _ _, rfl⟩
  · exact ⟨le_rfl, rfl⟩
  · exact ⟨le_rfl, rfl⟩

/-- In flight no instruction increases a count: only an acceptance installs one (R36 I5). -/
theorem effect_counts {i : Instr} {s t : State} (he : Effect i s t) (hf : s.ctrl.ie = true) :
    t.wcnt ≤ s.wcnt ∧ t.rcnt ≤ s.rcnt := by
  cases he with
  | armed div pre e idle => exact absurd (hf.symm.trans idle) nofun
  | accepted a wp wc rp rc htx ho idle => exact absurd (hf.symm.trans idle) nofun
  | advanced => exact ⟨(txAdvance_counts s).1, (txAdvance_counts s).2.le⟩
  | stored | storedLast => exact ⟨le_rfl, Nat.sub_le _ _⟩
  | _ => exact ⟨le_rfl, le_rfl⟩

/-! ### From an instruction to the step -/

/-- No control word is a command. -/
theorem format_decodeCommand_ne_ctl {p : Params} {d : Nat} {i : Instr} (h : decodeCommand p d = .ok i) :
    i.format ≠ .ctl := by rw [format_decodeCommand h]; nofun

/-- No control word is an event. -/
theorem format_decodeEventWith_ne_ctl (c : Byte → EventClass) (b : Byte) : (decodeEventWith c b).format ≠ .ctl := by
  rw [format_decodeEventWith]; nofun

/-- Every step keeps I1, I2, I3 and I7, for every classifier. -/
theorem inv_stepWith {c : Byte → EventClass} {s t : State} (hs : Inv s) (h : stepWith c s = .next t) : Inv t := by
  cases stepWith_effect h with
  | command sch n d hsc i t hd hp he => exact inv_effect he (format_decodeCommand_ne_ctl hd) { hs with }
  | event sch n t he => exact inv_effect he (format_decodeEventWith_ne_ctl c s.status) { hs with }
  | idle | violated | load | store | delivered => exact { hs with }

end Sys2Proof.Invariants

namespace Sys2Proof

open Sys2Proof.Machine Sys2Proof.Safety Sys2Proof.Kept Sys2Proof.Invariants

/-- Settles O41: a control word of a step goes on with the transaction exactly while the outcome is Busy. -/
theorem stepKeepsInvariants : Obligations.StepKeepsInvariants := fun _ _ => inv_stepWith

/-- Settles O42: a step changes CTRL, but for `iflag`, only by a control write, after which CTRL is that word. -/
theorem ctrlStaysTheLastControlWord : Obligations.CtrlStaysTheLastControlWord := by
  intro c s t hs h
  cases stepWith_effect h with
  | command sch n d hsc i t hd hp he => exact ctrlIsLastWord_effect he hs
  | event sch n t he => exact ctrlIsLastWord_effect he hs
  | idle | violated | load | store | delivered => exact hs

/-- Settles O44: an acceptance puts the cursors at the bases of the regions it lends, and each byte moves pointer and
count together. -/
theorem cursorsStayInTheirRegions : Obligations.CursorsStayInTheirRegions := by
  intro c s t hs h
  cases stepWith_effect h with
  | command sch n d hsc i t hd hp he =>
    exact cursorsInBorrow_effect he (format_decodeCommand_ne_ctl hd) (operandsInWidth_of_command hd) hs
  | event sch n t he =>
    have hi := operandsInWidth_of_event (p := s.params) (format_decodeEventWith c s.status)
    exact cursorsInBorrow_effect he (format_decodeEventWith_ne_ctl c s.status) hi hs
  | idle | violated | load | store | delivered => exact hs

/-- Settles O29: what writes CTRL in an instruction is a control write, which never sets `iflag`. -/
theorem blockNeverRaisesAnEvent : Obligations.BlockNeverRaisesAnEvent := by
  intro i s t h
  have he := exec_effect h
  refine ⟨effect_status he, fun hf => ?_⟩
  obtain ⟨hctrl, -, -⟩ | ⟨w, u, rfl, hctrl⟩ := effect_ctrlWrite he
  · rwa [hctrl] at hf
  · rw [← hctrl]
    exact iflag_of_ctrlWrite hf

/-- Settles O30, command by command: in flight INIT is rejected, a transaction command is held, and the two queries
only answer. -/
theorem commandsLeaveTransactionInFlight : Obligations.CommandsLeaveTransactionInFlight := by
  intro i s t hcmd hf h
  cases i with
  | init div pre =>
    cases ((initArmsTheIdleBlock div pre s).2 hf).symm.trans h
    exact ⟨rfl, .inr rfl⟩
  | write | read | writeRead =>
    cases (HostTurn.start_held hf).symm.trans h
    exact ⟨rfl, .inl rfl⟩
  | isBusy =>
    cases h
    simp [observeIdle, busy, hf, accept]
  | getStatus =>
    simp only [exec, execGetStatus] at h
    split at h <;> cases h <;> exact ⟨rfl, .inl rfl⟩
  | reservedOp6 | reservedOp7 => cases h
  | _ => cases hcmd

/-- Settles O37: in flight no instruction increases a count, and nothing else a step does touches one. -/
theorem countsNeverIncreaseInFlight : Obligations.CountsNeverIncreaseInFlight := by
  intro c s t hf h
  cases stepWith_effect h with
  | command sch n d hsc i t hd hp he =>
    have hcounts := effect_counts he hf
    exact hcounts
  | event sch n t he =>
    have hcounts := effect_counts he hf
    exact hcounts
  | idle | violated | load | store | delivered => exact ⟨le_rfl, le_rfl⟩

/-- Settles O7: the reset state's own values. -/
theorem resetLeavesPortDisabled : Obligations.ResetLeavesPortDisabled := fun _ => ⟨rfl, rfl, rfl, rfl⟩

/-- Settles O24, word by word: the instruction is the control write of its word. -/
theorem controlWordsWriteCtrl : Obligations.ControlWordsWriteCtrl := fun _ => ⟨rfl, rfl, rfl, rfl, rfl, rfl⟩

/-- Settles O40: at reset no word is written, nothing is in flight and every register of a parametric width is 0. -/
theorem resetMeetsInvariants : Obligations.ResetMeetsInvariants := by
  intro p c
  have z := Nat.two_pow_pos
  refine ⟨⟨nofun, nofun, fun h => absurd rfl h, nofun⟩, ⟨rfl, rfl, rfl, rfl, rfl, rfl, rfl⟩, rfl,
    cursorsInBorrow_idle rfl, ⟨z _, z _, z _, z _, z _, z _, nofun⟩,
    ⟨nofun, nofun, nofun, nofun, nofun, nofun⟩, nofun, nofun⟩

end Sys2Proof
end

section
/-!
What no rule of the block reads (spec/10_state.md R25, R34, R37, R38): every operation, run on a state with those parts
blanked out, answers what it answers on the state itself but for those parts. Each operation has its lemma; an operation
that branches does so on what `blind` keeps.
-/

namespace Sys2Proof.Blind

open Sys2Proof.Machine Sys2Proof.Safety

/-! ### What is kept: everything a rule branches on -/

section
variable (s : State)

@[simp] theorem blind_params : (blind s).params = s.params := rfl
@[simp] theorem blind_wcnt : (blind s).wcnt = s.wcnt := rfl
@[simp] theorem blind_rcnt : (blind s).rcnt = s.rcnt := rfl
@[simp] theorem blind_outcome : (blind s).outcome = s.outcome := rfl
@[simp] theorem blind_ctrl : (blind s).ctrl = s.ctrl := rfl
@[simp] theorem blind_presented : (blind s).presented = s.presented := rfl
@[simp] theorem blind_hostScript : (blind s).hostScript = s.hostScript := rfl
@[simp] theorem blind_portScript : (blind s).portScript = s.portScript := rfl
@[simp] theorem blind_schedule : (blind s).schedule = s.schedule := rfl
@[simp] theorem busy_blind : busy (blind s) = busy s := rfl
@[simp] theorem eventEnabled_blind : eventEnabled (blind s) = eventEnabled s := rfl
@[simp] theorem portEnabled_blind : portEnabled (blind s) = portEnabled s := rfl
@[simp] theorem addrExists_blind (a : Nat) : addrExists (blind s) a = addrExists s a := rfl
@[simp] theorem lentOut_blind (f : Borrow → Bool) : lentOut f (blind s) = lentOut f s := rfl

end

/-! ### The shared operations -/

theorem blind_startTransaction (a : Byte) (wp wc rp rc : Nat) (s : State) :
    blind (startTransaction a wp wc rp rc s) = blind (startTransaction a wp wc rp rc (blind s)) := by
  unfold startTransaction
  rw [blind_ctrl, blind_params]
  split_ifs <;> rfl

theorem blind_txAdvance (s : State) : blind (txAdvance s) = blind (txAdvance (blind s)) := by
  unfold txAdvance
  rw [blind_wcnt, blind_rcnt]
  split_ifs <;> rfl

theorem blind_storeReceived {rest : State → State} (d : Byte) (s : State)
    (hrest : blind (rest (storeByte d s)) = blind (rest (storeByte d (blind s)))) :
    blind (storeReceived d s rest) = blind (storeReceived d (blind s) rest) := by
  unfold storeReceived
  rw [blind_rcnt]
  split_ifs
  · rfl
  · exact hrest

/-- The interlock asks only for `CTRL.ie` (R90). -/
theorem blindResult_interlock {s u v : State} (h : blind u = blind v) :
    blindResult (interlock s u) = blindResult (interlock (blind s) v) := by
  unfold interlock
  rw [busy_blind]
  split_ifs
  · rfl
  · exact congrArg Host.Outcome.next h

/-- Event entry asks only for the interrupt line (R110). -/
theorem blindResult_takeEvent {s u v : State} (h : blind u = blind v) :
    blindResult (takeEvent s u) = blindResult (takeEvent (blind s) v) := by
  unfold takeEvent
  rw [eventEnabled_blind]
  split_ifs
  · exact congrArg Host.Outcome.next h
  · rfl

/-! ### The instructions -/

theorem blindResult_execInit (div pre : Nat) (s : State) :
    blindResult (execInit div pre s) = blindResult (execInit div pre (blind s)) := by
  unfold execInit
  rw [busy_blind]
  split_ifs <;> rfl

theorem blindResult_execGetStatus (s : State) :
    blindResult (execGetStatus s) = blindResult (execGetStatus (blind s)) := by
  unfold execGetStatus
  rw [blind_outcome]
  cases s.outcome <;> rfl

/-- No instruction reads what is blanked out. -/
theorem blindResult_exec (i : Instr) (s : State) : blindResult (exec i s) = blindResult (exec i (blind s)) := by
  cases i with
  | init div pre => exact blindResult_execInit div pre s
  | write | read | writeRead => exact blindResult_interlock (blind_startTransaction ..)
  | isBusy => rfl
  | getStatus => exact blindResult_execGetStatus s
  | slawAck | txdataAck => exact blindResult_takeEvent (blind_txAdvance s)
  | rxdataAck | rxdataNack => exact blindResult_takeEvent (blind_storeReceived s.data s rfl)
  | startSent | repStartSent | arbLost | slarAck => exact blindResult_takeEvent rfl
  | otherSlawNack | otherTxdataNack | otherSlarNack | otherBusError | otherNoState | other =>
    exact blindResult_takeEvent rfl
  | reservedOp6 | reservedOp7 | cwArm | cwStart | cwNext | cwNextAck | cwStop | cwHold => rfl

/-! ### The agents -/

theorem blindResult_runDescriptor (d : Nat) (s : State) :
    blindResult (runDescriptor d s) = blindResult (runDescriptor d (blind s)) := by
  unfold runDescriptor
  rw [blind_params]
  cases decodeCommand s.params d with
  | ok i => exact blindResult_exec i s
  | error => rfl

theorem blindResult_hostLoad (a : Nat) (s : State) :
    blindResult (hostLoad a s) = blindResult (hostLoad a (blind s)) := by
  unfold hostLoad
  rw [addrExists_blind, lentOut_blind]
  split_ifs <;> rfl

theorem blindResult_hostStore (a : Nat) (v : Byte) (s : State) :
    blindResult (hostStore a v s) = blindResult (hostStore a v (blind s)) := by
  unfold hostStore
  rw [addrExists_blind, lentOut_blind]
  split_ifs <;> rfl

theorem blindResult_hostStep (s : State) : blindResult (hostStep s) = blindResult (hostStep (blind s)) := by
  unfold hostStep
  rw [blind_presented, blind_hostScript]
  cases s.presented with
  | some d => exact blindResult_runDescriptor d s
  | none =>
    rcases s.hostScript with _ | ⟨_ | _ | _, r⟩
    · rfl
    · exact blindResult_runDescriptor _ { s with presented := _, hostScript := r }
    · exact blindResult_hostLoad _ { s with presented := none, hostScript := r }
    · exact blindResult_hostStore _ _ { s with presented := none, hostScript := r }

/-- Where the next event comes from is none of what is blanked out (R144). -/
theorem nextEvent_blind (s : State) : nextEvent (blind s) = ((nextEvent s).1, blind (nextEvent s).2) := by
  unfold nextEvent
  rw [blind_portScript]
  cases s.portScript <;> rfl

theorem blind_portStep (c : Byte → EventClass) (s : State) :
    blind (portStep c s) = blind (portStep c (blind s)) := by
  unfold portStep
  rw [portEnabled_blind, nextEvent_blind]
  split_ifs <;> rfl

theorem blindResult_agentStep (c : Byte → EventClass) (a : Agent) (s : State) :
    blindResult (agentStep c a s) = blindResult (agentStep c a (blind s)) := by
  cases a with
  | host => exact blindResult_hostStep s
  | sequencer => exact blindResult_exec (decodeEventWith c s.status) s
  | port => exact congrArg Host.Outcome.next (blind_portStep c s)

/-- Whose turn it is depends on none of what is blanked out (R7). -/
theorem nextAgent_blind (s : State) : nextAgent (blind s) = ((nextAgent s).1, blind (nextAgent s).2) := by
  unfold nextAgent
  rw [blind_schedule]
  cases s.schedule <;> rfl

end Sys2Proof.Blind

namespace Sys2Proof

open Sys2Proof.Machine Sys2Proof.Blind

/-- Settles O49: the agent that moves is the same, and its step branches on nothing that is blanked out. -/
theorem diagnosticsAreNeverRead : Obligations.DiagnosticsAreNeverRead := by
  intro c s
  unfold stepWith
  rw [nextAgent_blind]
  exact blindResult_agentStep c (nextAgent s).1 (nextAgent s).2

end Sys2Proof
end

section
/-!
Buffer memory, instruction by instruction and step by step (spec/20_memory.md R50, R53, R55, R62): the one store an
instruction can do, the one load it can do, where the cursors let them go, and what a finished run leaves alone (R197).
-/

namespace Sys2Proof.Turn

open Sys2Proof.Machine

/-- On a scheduled turn the step is that agent's (R7, R56). -/
theorem stepWith_scheduled {c : Byte → EventClass} {s : State} {a : Agent} {r : List Agent} (h : s.schedule = a :: r) :
    stepWith c s = agentStep c a { s with schedule := r } := by
  rw [stepWith, nextAgent_cons h]

/-- On the host's turn with nothing presented, the script's command is presented and run (R90, R198). -/
theorem step_command {s : State} {r : List Agent} {hs : List HostAction} {d : Nat} (h : s.schedule = .host :: r)
    (hp : s.presented = none) (hh : s.hostScript = .command d :: hs) :
    step s = runDescriptor d { s with schedule := r, presented := some d, hostScript := hs } := by
  rw [step_host h]; simp only [hostStep, hp, hh]

/-- Running a descriptor that spells a command is running the command (R90). -/
theorem runDescriptor_ok {s : State} {d : Nat} {i : Instr} (h : decodeCommand s.params d = .ok i) :
    runDescriptor d s = exec i s := by
  rw [runDescriptor, h]

end Sys2Proof.Turn

namespace Sys2Proof.BufferMemory

open Sys2Proof.Machine Sys2Proof.Safety Sys2Proof.Kept

/-! ### The store and the load -/

/-- The one way an instruction changes memory: a serviced receive event with room left stores DATA at the read pointer
(R122). -/
theorem effect_mem {i : Instr} {s t : State} (he : Effect i s t) :
    t.mem = s.mem ∨
      isReceiveEvent i = true ∧ eventEnabled s = true ∧ s.rcnt ≠ 0 ∧ t.mem = memPut s.mem s.rptr s.data := by
  cases he with
  | stored b hi en room | storedLast b hi en room => exact .inr ⟨hi ▸ rfl, en, room, rfl⟩
  | advanced => rw [txAdvance_frame]; exact .inl rfl
  | _ => exact .inl rfl

/-- The one way an event changes the write count: a byte left to send was loaded into DATA from the write pointer
(R117). -/
theorem effect_wcnt {i : Instr} {s t : State} (he : Effect i s t) (hi : i.format = .evt) :
    t.wcnt = s.wcnt ∨ eventEnabled s = true ∧ s.wcnt ≠ 0 ∧ t.data = memRead s s.wptr := by
  cases he with
  | armed div pre e => rw [e] at hi; cases hi
  | accepted a wp wc rp rc htx => rw [format_of_isTransaction htx] at hi; cases hi
  | advanced hev en =>
    obtain ⟨hc, e⟩ | ⟨-, -, e⟩ | ⟨-, -, e⟩ := txAdvance_cases s <;> rw [e]
    · exact .inr ⟨en, hc, rfl⟩
    · exact .inl rfl
    · exact .inl rfl
  | _ => exact .inl rfl

/-- Every instruction keeps memory in its canonical form. -/
theorem wf_effect {i : Instr} {s t : State} (he : Effect i s t) (hs : Memory.wf s.mem = true) :
    Memory.wf t.mem = true := by
  obtain h | ⟨-, -, -, h⟩ := effect_mem he <;> rw [h]
  · exact hs
  · exact wf_memPut s.mem s.rptr s.data hs

/-- A byte reads as before where memory was not written. -/
theorem memRead_congr {s t : State} (h : t.mem = s.mem) (a : Nat) : memRead t a = memRead s a := by
  rw [memRead, memRead, h]

/-- The one address that can read differently after an instruction is the read pointer's, and only with a byte still
expected (R122). -/
theorem eq_rptr_of_memRead_ne {i : Instr} {s t : State} {a : Nat} (he : Effect i s t)
    (ha : memRead t a ≠ memRead s a) : a = s.rptr ∧ eventEnabled s = true ∧ s.rcnt ≠ 0 := by
  obtain h | ⟨-, en, room, h⟩ := effect_mem he
  · exact absurd (memRead_congr h a) ha
  · refine ⟨?_, en, room⟩
    by_contra hne
    have hread : memRead t a = memRead (memWrite s.rptr s.data s) a := memRead_congr h a
    rw [memRead_memWrite, if_neg hne] at hread
    exact ha hread

/-- A cursor with bytes left points inside its region (R62). -/
theorem inRegion_of_cursorOn {w base len ptr cnt : Nat} (h : cursorOn w base len ptr cnt) (hc : cnt ≠ 0) :
    inRegion base len ptr = true := by
  obtain ⟨hfit, hcnt, rfl⟩ := h
  rw [Nat.mod_eq_of_lt (by omega), inRegion_iff]
  omega

/-! ### A finished run -/

/-- With the interrupt line low an event does nothing (R110, R151). -/
theorem exec_event_disabled {i : Instr} {s : State} (hi : i.format = .evt) (hq : eventEnabled s = false) :
    exec i s = .next s := by
  cases i with
  | init | write | read | writeRead | isBusy | getStatus | reservedOp6 | reservedOp7 => cases hi
  | cwArm | cwStart | cwNext | cwNextAck | cwStop | cwHold => cases hi
  | _ => exact takeEvent_disabled hq

theorem runOver_iff {s : State} :
    runOver s = true ↔ s.hostScript = [] ∧ s.presented = none ∧ s.ctrl.ie = false ∧ s.faults = [] := by
  simp [runOver, and_assoc]

/-- Once a run is over the only step left, beside an idle turn, is the port's (R58, R151, R197). -/
theorem agentStep_of_runOver (c : Byte → EventClass) (a : Agent) {s : State} (hs : runOver s = true) :
    agentStep c a s = .next s ∨
      ∃ (e : PortEvent) (ps : List PortEvent) (n : Nat),
        agentStep c a s = .next (deliver (c e.status) e { s with portScript := ps, draws := n }) := by
  obtain ⟨hscript, hpres, hie, -⟩ := runOver_iff.mp hs
  cases a with
  | host => exact .inl (by simp only [agentStep, hostStep, hpres, hscript])
  | sequencer =>
    have hq : eventEnabled s = false := by simp [eventEnabled, hie]
    exact .inl (exec_event_disabled (format_decodeEventWith c s.status) hq)
  | port =>
    obtain ⟨-, e⟩ | ⟨-, e, ps, n, h⟩ := portStep_cases c s
    · exact .inl (congrArg Host.Outcome.next e)
    · exact .inr ⟨e, ps, n, congrArg Host.Outcome.next h⟩

end Sys2Proof.BufferMemory

namespace Sys2Proof

open Sys2Proof.Machine Sys2Proof.Safety Sys2Proof.Turn Sys2Proof.BufferMemory

/-- Settles O43: a step writes memory only by `memPut`, for a received byte or a host store. -/
theorem stepKeepsMemoryCanonical : Obligations.StepKeepsMemoryCanonical := by
  intro c s t hs h
  cases stepWith_effect h with
  | command sch n d hsc i t hd hp he => exact wf_effect he hs
  | event sch n t he => exact wf_effect he hs
  | store sch n hsc a v => exact wf_memPut s.mem a v hs
  | idle | violated | load | delivered => exact hs

/-- Settles O26: the one effect that writes memory is that of a receive event. -/
theorem onlyReceiveEventsWriteMemory : Obligations.OnlyReceiveEventsWriteMemory := by
  intro i s t hi h a
  obtain hmem | ⟨hrecv, -⟩ := effect_mem (exec_effect h)
  · exact memRead_congr hmem a
  · exact absurd (hi.symm.trans hrecv) nofun

/-- Settles O39: whoever moves, the state is left as it is but for the turn, or the port delivers an event, which
touches only its own registers. -/
theorem finishedRunStaysFinished : Obligations.FinishedRunStaysFinished := by
  intro c s hs
  obtain ⟨sch, n, hturn⟩ := nextAgent_state s
  have hstep : stepWith c s = agentStep c (nextAgent s).1 { s with schedule := sch, draws := n } := by
    rw [← hturn]; rfl
  obtain h | ⟨e, ps, m, h⟩ := agentStep_of_runOver c (nextAgent s).1 (s := { s with schedule := sch, draws := n }) hs
  · exact ⟨_, hstep.trans h, hs, rfl, rfl, rfl, rfl, rfl, rfl, rfl, rfl, rfl⟩
  · exact ⟨_, hstep.trans h, hs, rfl, rfl, rfl, rfl, rfl, rfl, rfl, rfl, rfl⟩

/-- Settles O45: a store goes through the read cursor, a load through the write cursor, each with a byte left. -/
theorem sequencerStaysInLentRegions : Obligations.SequencerStaysInLentRegions := by
  intro c s t r hcur hsch h
  rw [stepWith_scheduled hsch] at h
  have he : Effect (decodeEventWith c s.status) { s with schedule := r } t := exec_effect h
  refine ⟨fun a ha => ?_, fun hw => ?_⟩
  · obtain ⟨rfl, en, room⟩ := eq_rptr_of_memRead_ne he ha
    obtain ⟨b, hb, -, hread⟩ := hcur (eventEnabled_iff.mp en).2
    exact ⟨b, hb, inRegion_of_cursorOn hread room⟩
  · obtain heq | ⟨en, left, hdata⟩ := effect_wcnt he (format_decodeEventWith c s.status)
    · exact absurd heq hw
    · obtain ⟨b, hb, hwrite, -⟩ := hcur (eventEnabled_iff.mp en).2
      exact ⟨b, hb, inRegion_of_cursorOn hwrite left, hdata⟩

/-- Settles O31: the host's turn runs the descriptor, and running it is running the command it decodes to. -/
theorem stepRunsThePresentedCommand : Obligations.StepRunsThePresentedCommand := by
  intro s r d i hsch hd
  refine ⟨fun hp => ?_, fun hs hp hscript => ?_⟩
  · exact (step_presented hsch hp).trans (runDescriptor_ok hd)
  · exact (step_command hsch hp hscript).trans (runDescriptor_ok hd)

end Sys2Proof
end

section
/-!
A transaction on the well-behaved port (spec/41_sequencer_events.md R119, R132, 42_port_contract.md R145): what phase
each control write leads to, that every instruction and every allowed event keeps the transaction on track, and that a
byte received on track has room.
-/

namespace Sys2Proof.WellBehaved

open Sys2Proof.Machine Sys2Proof.Safety Sys2Proof.Kept

/-! ### The phase after a control write -/

/-- A start event is awaited exactly while CW_START is the newest item (R132). -/
theorem phaseOf_eq_awaitStart {w : CtlWord} {l : List PortItem} :
    phaseOf (.ctl w :: l) = .awaitStart ↔ w = .start := by
  unfold phaseOf
  split <;> simp_all

/-- Outside the idle phase the newest trace item is a control word (R132). -/
theorem newest_of_phase {s : State} (h : phase s ≠ .idle) :
    ∃ w l, s.trace.reverse = .ctl w :: l ∧ (phase s = .awaitStart ↔ w = .start) := by
  unfold phase at h ⊢
  generalize s.trace.reverse = items at h ⊢
  rcases items with _ | ⟨w | b, l⟩
  · exact (h rfl).elim
  · exact ⟨w, l, rfl, phaseOf_eq_awaitStart⟩
  · exact (h rfl).elim

theorem phase_ctrlWrite_start (s : State) : phase (ctrlWrite .start s) = .awaitStart := by
  simp [phase, phaseOf]

/-- The byte sent after a START is the address byte (R113, R114). -/
theorem phase_sendAddress {s : State} (h : phase s = .awaitStart) :
    phase (sendAddress s) = .addrSent (s.ta.getLsbD 0) := by
  obtain ⟨w, l, hl, hw⟩ := newest_of_phase (s := s) (by rw [h]; nofun)
  obtain rfl := hw.mp h
  simp [phase, phaseOf, sendAddress, hl]

/-- A byte sent anywhere but after a START is a data byte (R117). -/
theorem phase_sendNextByte {s : State} (hidle : phase s ≠ .idle) (hstart : phase s ≠ .awaitStart) :
    phase (ctrlWrite .next (sendNextByte s)) = .transmit := by
  obtain ⟨w, l, hl, hw⟩ := newest_of_phase hidle
  have hne : w ≠ .start := mt hw.mpr hstart
  simp [phase, phaseOf, sendNextByte, hl, hne]

/-- Arming a reception leads to the receive phase with the answer of the lookahead decision (R119). -/
theorem phase_armReceive {s : State} (hidle : phase s ≠ .idle) :
    phase (armReceive s) = .receive (decide (1 < s.rcnt)) := by
  obtain ⟨w, l, hl, -⟩ := newest_of_phase hidle
  obtain ⟨h, e⟩ | ⟨h, e⟩ := armReceive_cases s
  · simp [e, phase, phaseOf, h]
  · simp [e, phase, phaseOf, hl, h]

/-- The one phase in which a well-behaved port delivers an event of the class; ARB_LOST and OTHER have several
(R145). -/
def phaseOfClass : EventClass → Option Phase
  | .startSent | .repStartSent => some .awaitStart
  | .slawAck => some (.addrSent false)
  | .slarAck => some (.addrSent true)
  | .txdataAck => some .transmit
  | .rxdataAck => some (.receive true)
  | .rxdataNack => some (.receive false)
  | .arbLost | .other => none

theorem phase_of_allowed {p q : Phase} {k : EventClass} (h : phaseAllows p k = true) (hk : phaseOfClass k = some q) :
    p = q := by
  unfold phaseAllows at h
  split at h <;> cases h <;> cases hk <;> rfl

/-- A serviced event on track finds the phase its class belongs to (R132, R145). -/
theorem phase_of_pending {c : Byte → EventClass} {s : State} {q : Phase} (hs : OnTrack c s)
    (en : eventEnabled s = true) (hk : phaseOfClass (c s.status) = some q) : phase s = q := by
  obtain ⟨hflag, hf⟩ := eventEnabled_iff.mp en
  exact phase_of_allowed (hs.pendingFits hf hflag) hk

/-! ### Staying on track -/

/-- An idle state has no transaction to keep on track. -/
theorem onTrack_idle {c : Byte → EventClass} {s : State} (h : s.ctrl.ie = false) : OnTrack c s := by
  have hnot : s.ctrl.ie ≠ true := by rw [h]; nofun
  exact ⟨fun k => absurd k hnot, fun k => absurd k hnot, fun k => absurd k hnot, fun _ k => absurd k hnot,
    fun k => absurd k hnot, fun _ k => absurd k hnot⟩

/-- With no event pending, a state is on track when its direction and counts fit its phase. -/
theorem onTrack_of_phase {c : Byte → EventClass} {s : State} {p : Phase} (hp : phase s = p)
    (hflag : s.ctrl.iflag = false) (hin : p ≠ .idle ∧ p ≠ .errorHold)
    (hreading : s.ta.getLsbD 0 = true → s.wcnt = 0 ∧ s.rcnt ≠ 0)
    (hdirection : ∀ r, p = .addrSent r → s.ta.getLsbD 0 = r) (htransmit : p = .transmit → s.ta.getLsbD 0 = false)
    (hreceive : ∀ a, p = .receive a → s.ta.getLsbD 0 = true ∧ (a = true ↔ 1 < s.rcnt)) : OnTrack c s := by
  subst hp
  exact ⟨fun _ h => absurd (h.symm.trans hflag) nofun, fun _ => hin, fun _ => hreading, fun r _ => hdirection r,
    fun _ => htransmit, fun a _ => hreceive a⟩

section
variable {c : Byte → EventClass} {s : State}

/-- A START, first or repeated (R92, R117, R123). -/
theorem onTrack_ctrlWrite_start (hreading : s.ta.getLsbD 0 = true → s.wcnt = 0 ∧ s.rcnt ≠ 0) :
    OnTrack c (ctrlWrite .start s) :=
  onTrack_of_phase (phase_ctrlWrite_start s) rfl ⟨nofun, nofun⟩ hreading nofun nofun nofun

/-- The address byte goes out with the direction of `ta` (R113, R114). -/
theorem onTrack_sendAddress (hp : phase s = .awaitStart)
    (hreading : s.ta.getLsbD 0 = true → s.wcnt = 0 ∧ s.rcnt ≠ 0) : OnTrack c (sendAddress s) :=
  onTrack_of_phase (phase_sendAddress hp) rfl ⟨nofun, nofun⟩ hreading (fun _ h => Phase.addrSent.inj h) nofun nofun

/-- `TxAdvance` (R117) sends with the direction bit clear, and turns to reading only with something to receive. -/
theorem onTrack_txAdvance (hdir : s.ta.getLsbD 0 = false) (hidle : phase s ≠ .idle)
    (hstart : phase s ≠ .awaitStart) : OnTrack c (txAdvance s) := by
  obtain ⟨-, e⟩ | ⟨hw, hr, e⟩ | ⟨-, -, e⟩ := txAdvance_cases s <;> rw [e]
  · exact onTrack_of_phase (phase_sendNextByte hidle hstart) rfl ⟨nofun, nofun⟩
      (fun h => absurd (h.symm.trans hdir) nofun) nofun (fun _ => hdir) nofun
  · exact onTrack_ctrlWrite_start fun _ => ⟨hw, hr⟩
  · exact onTrack_idle rfl

/-- `ArmReceive` (R119) answers ACK exactly while more than one byte is outstanding. -/
theorem onTrack_armReceive (hdir : s.ta.getLsbD 0 = true) (hw : s.wcnt = 0) (hr : s.rcnt ≠ 0)
    (hidle : phase s ≠ .idle) : OnTrack c (armReceive s) := by
  have hflag : (armReceive s).ctrl.iflag = false := by
    obtain ⟨-, e⟩ | ⟨-, e⟩ := armReceive_cases s <;> rw [e] <;> rfl
  refine onTrack_of_phase (phase_armReceive hidle) hflag ⟨nofun, nofun⟩ (fun _ => ⟨hw, hr⟩) nofun nofun fun a h => ?_
  cases h
  exact ⟨hdir, decide_eq_true_iff⟩

/-- In the receive phase the direction bit is set, nothing is left to send and a byte is still expected (R57). -/
theorem receive_counts {a : Bool} (hs : OnTrack c s) (hf : s.ctrl.ie = true) (hp : phase s = .receive a) :
    s.ta.getLsbD 0 = true ∧ s.wcnt = 0 ∧ s.rcnt ≠ 0 := by
  obtain ⟨hdir, -⟩ := hs.receiving a hf hp
  exact ⟨hdir, hs.reading hf hdir⟩

/-- A transmit event on track is serviced with the direction bit clear, after the START phase (R115, R116). -/
theorem transmit_of_pending (hs : OnTrack c s) (en : eventEnabled s = true)
    (hev : c s.status = .slawAck ∨ c s.status = .txdataAck) :
    s.ta.getLsbD 0 = false ∧ phase s ≠ .awaitStart := by
  have hf := (eventEnabled_iff.mp en).2
  obtain hc | hc := hev
  · have hp : phase s = .addrSent false := phase_of_pending hs en (by rw [hc]; rfl)
    exact ⟨hs.addressDirection false hf hp, by rw [hp]; nofun⟩
  · have hp : phase s = .transmit := phase_of_pending hs en (by rw [hc]; rfl)
    exact ⟨hs.transmitting hf hp, by rw [hp]; nofun⟩

/-- Every event serviced on track keeps the transaction on track. -/
theorem onTrack_event {t : State} (hs : OnTrack c s) (he : Effect (decodeEventWith c s.status) s t) :
    OnTrack c t := by
  have hevt := format_decodeEventWith c s.status
  obtain ⟨isStart, isTransmit, -, isSlar, isRxAck, -, -⟩ := class_of_decodeEventWith c s.status
  cases he with
  | unchanged | rejected | polled | answered | underflowed => exact { hs with }
  | armed | storedLast | failed => exact onTrack_idle rfl
  | accepted a wp wc rp rc htx => exact absurd ((format_of_isTransaction htx).symm.trans hevt) nofun
  | wrote w hctl => exact absurd (hctl.symm.trans hevt) nofun
  | retried b hev en => exact onTrack_ctrlWrite_start (hs.reading (eventEnabled_iff.mp en).2)
  | addressed hev en =>
    have hp : phase s = .awaitStart :=
      phase_of_pending hs en (by obtain hc | hc := isStart.mp hev <;> rw [hc] <;> rfl)
    exact onTrack_sendAddress hp (hs.reading (eventEnabled_iff.mp en).2)
  | advanced hev en =>
    obtain ⟨hdir, hstart⟩ := transmit_of_pending hs en (isTransmit.mp hev)
    exact onTrack_txAdvance hdir (hs.inFlightPhase (eventEnabled_iff.mp en).2).1 hstart
  | armedReceive b hev en =>
    have hf := (eventEnabled_iff.mp en).2
    have hp : phase s = .addrSent true := phase_of_pending hs en (by rw [isSlar b hev]; rfl)
    have hdir := hs.addressDirection true hf hp
    obtain ⟨hw, hr⟩ := hs.reading hf hdir
    exact onTrack_armReceive hdir hw hr (hs.inFlightPhase hf).1
  | stored b hev en =>
    have hf := (eventEnabled_iff.mp en).2
    have hp : phase s = .receive true := phase_of_pending hs en (by rw [isRxAck b hev]; rfl)
    obtain ⟨hdir, hw, -⟩ := receive_counts hs hf hp
    have hmore : 1 < s.rcnt := (hs.receiving true hf hp).2.mp rfl
    exact onTrack_armReceive (s := storeByte s.data s) hdir hw (Nat.sub_ne_zero_of_lt hmore) (hs.inFlightPhase hf).1

/-- A command that starts a read only with bytes to receive keeps the transaction on track. -/
theorem onTrack_command {i : Instr} {t : State} (he : Effect i s t) (hcmd : i.format = .cmd)
    (hread : ∀ a wp wc rp rc, startOperands i = some (a, wp, wc, rp, rc) → a.getLsbD 0 = true → wc = 0 ∧ rc ≠ 0)
    (hs : OnTrack c s) : OnTrack c t := by
  cases he with
  | unchanged | rejected | polled | answered | underflowed => exact { hs with }
  | armed | storedLast | failed => exact onTrack_idle rfl
  | accepted a wp wc rp rc htx ho => exact onTrack_ctrlWrite_start (hread a wp wc rp rc ho)
  | wrote w hctl => exact absurd (hctl.symm.trans hcmd) nofun
  | addressed hev => exact absurd ((format_of_isStartEvent hev).symm.trans hcmd) nofun
  | advanced hev => exact absurd ((format_of_isTransmitEvent hev).symm.trans hcmd) nofun
  | retried b hev | armedReceive b hev | stored b hev => rw [hev] at hcmd; cases hcmd

end

/-! ### The host's commands -/

/-- A decoded transaction that reads first has nothing to send, and, not being a READ of length 0, something to receive
(R94, R189). -/
theorem reading_of_startOperands {p : Params} {d : Nat} {i : Instr} (hd : decodeCommand p d = .ok i)
    (hz : notZeroRead p d = true) (a : Byte) (wp wc rp rc : Nat) (ho : startOperands i = some (a, wp, wc, rp, rc))
    (hdir : a.getLsbD 0 = true) : wc = 0 ∧ rc ≠ 0 := by
  cases i with
  | write | writeRead =>
    cases ho
    rw [addrByte_direction] at hdir
    cases hdir
  | read =>
    cases ho
    simpa [notZeroRead, hd] using hz
  | _ => cases ho

/-- What an instruction does to the command interface: the script stays, and the descriptor stays or leaves (R90). -/
theorem effect_interface {i : Instr} {s t : State} (he : Effect i s t) :
    t.hostScript = s.hostScript ∧ (t.presented = s.presented ∨ t.presented = none) := by
  cases he with
  | rejected | armed | accepted | polled | answered => exact ⟨rfl, .inr rfl⟩
  | advanced => rw [txAdvance_frame]; exact ⟨rfl, .inl rfl⟩
  | _ => exact ⟨rfl, .inl rfl⟩

/-- No instruction puts a READ of length 0 before the block. -/
theorem noZeroRead_effect {i : Instr} {s t : State} (he : Effect i s t) (hs : NoZeroRead s) : NoZeroRead t := by
  obtain ⟨hpresented, hscripted⟩ := hs
  obtain ⟨hscript, hkept⟩ := effect_interface he
  unfold NoZeroRead
  rw [effect_params he, hscript]
  refine ⟨fun d hd => ?_, hscripted⟩
  obtain h | h := hkept
  · exact hpresented d (h.symm.trans hd)
  · exact absurd (h.symm.trans hd) nofun

/-- Taking the script's next action leaves no READ of length 0 in it. -/
theorem scripted_tail {s : State} {x : HostAction} {hs : List HostAction} (h : NoZeroRead s)
    (hx : s.hostScript = x :: hs) (d : Nat) (hd : .command d ∈ hs) : notZeroRead s.params d = true :=
  h.2 d (hx ▸ List.mem_cons_of_mem x hd)

/-- The descriptor the host runs is no READ of length 0, and none is left behind it. -/
theorem noZeroRead_of_taken {s : State} {d : Nat} {hs : List HostAction} (h : NoZeroRead s)
    (hp : s.presented = some d ∧ hs = s.hostScript ∨ s.presented = none ∧ s.hostScript = .command d :: hs) :
    notZeroRead s.params d = true ∧ ∀ x, .command x ∈ hs → notZeroRead s.params x = true := by
  obtain ⟨hpres, rfl⟩ | ⟨-, hscript⟩ := hp
  · exact ⟨h.1 d hpres, h.2⟩
  · exact ⟨h.2 d (hscript ▸ List.mem_cons_self), scripted_tail h hscript⟩

/-! ### CursorUnderflow -/

/-- The one way an instruction records CursorUnderflow: a byte received with none expected (R122). -/
theorem effect_cursorUnderflow {i : Instr} {s t : State} (he : Effect i s t) (hf : .cursorUnderflow ∈ t.faults) :
    .cursorUnderflow ∈ s.faults ∨ isReceiveEvent i = true ∧ eventEnabled s = true ∧ s.rcnt = 0 := by
  cases he with
  | rejected f hi =>
    obtain h | rfl := mem_recordFault.mp hf
    · exact .inl h
    · simp at hi
  | underflowed hi en full => exact .inr ⟨hi, en, full⟩
  | advanced => rw [txAdvance_frame] at hf; exact .inl hf
  | _ => exact .inl hf

theorem format_of_isReceiveEvent {i : Instr} (h : isReceiveEvent i = true) : i.format = .evt := by
  cases i with
  | rxdataAck | rxdataNack => rfl
  | _ => cases h

/-- The class of a decoded receive event (R73). -/
theorem class_of_receiveEvent {c : Byte → EventClass} {b : Byte} (h : isReceiveEvent (decodeEventWith c b) = true) :
    c b = .rxdataAck ∨ c b = .rxdataNack := by
  obtain ⟨-, -, -, -, isRxAck, isRxNack, -⟩ := class_of_decodeEventWith c b
  cases hi : decodeEventWith c b with
  | rxdataAck x => exact .inl (isRxAck x hi)
  | rxdataNack x => exact .inr (isRxNack x hi)
  | _ => rw [hi] at h; cases h

/-- A byte received on track is expected (R57, R119). -/
theorem rcnt_ne_zero_of_receiveEvent {c : Byte → EventClass} {s : State} (hs : OnTrack c s)
    (en : eventEnabled s = true) (hev : isReceiveEvent (decodeEventWith c s.status) = true) : s.rcnt ≠ 0 := by
  have hphase : ∃ a, phase s = .receive a := by
    obtain hc | hc := class_of_receiveEvent hev
    · exact ⟨true, phase_of_pending hs en (by rw [hc]; rfl)⟩
    · exact ⟨false, phase_of_pending hs en (by rw [hc]; rfl)⟩
  obtain ⟨a, hp⟩ := hphase
  exact (receive_counts hs (eventEnabled_iff.mp en).2 hp).2.2

/-- No step from a state on track records CursorUnderflow. -/
theorem step_cursorUnderflow {c : Byte → EventClass} {s t : State} (hs : OnTrack c s) (h : stepWith c s = .next t)
    (hf : .cursorUnderflow ∈ t.faults) : .cursorUnderflow ∈ s.faults := by
  cases stepWith_effect h with
  | command sch n d hsc i t hd hp he =>
    obtain h | ⟨hev, -⟩ := effect_cursorUnderflow he hf
    · exact h
    · exact absurd ((format_of_isReceiveEvent hev).symm.trans (format_decodeCommand hd)) nofun
  | event sch n t he =>
    obtain h | ⟨hev, en, full⟩ := effect_cursorUnderflow he hf
    · exact h
    · have hturn : OnTrack c { s with schedule := sch, draws := n } := { hs with }
      exact absurd full (rcnt_ne_zero_of_receiveEvent hturn en hev)
  | violated =>
    obtain h | h := mem_recordFault.mp hf
    · exact h
    · cases h
  | idle | load | store | delivered => exact hf

/-- A step a well-behaved port can take part in keeps a transaction on track and the host free of a READ of length 0. -/
theorem onTrack_step {c : Byte → EventClass} {s t : State} (hs : OnTrack c s) (hz : NoZeroRead s)
    (h : stepWith c s = .next t) (hwb : WellBehavedStep c s t) : OnTrack c t ∧ NoZeroRead t := by
  cases stepWith_effect h with
  | command sch n d hsc i t hd hp he =>
    obtain ⟨hrun, hleft⟩ := noZeroRead_of_taken hz hp
    refine ⟨onTrack_command he (format_decodeCommand hd) (reading_of_startOperands hd hrun) { hs with }, ?_⟩
    exact noZeroRead_effect he ⟨fun x hx => Option.some.inj hx ▸ hrun, hleft⟩
  | event sch n t he =>
    have hturn : OnTrack c { s with schedule := sch, draws := n } := { hs with }
    exact ⟨onTrack_event hturn he, noZeroRead_effect he hz⟩
  | violated sch n hsc x hp hx =>
    have htail := scripted_tail hz hx
    exact ⟨{ hs with }, hz.1, htail⟩
  | load sch n hsc a hp hx =>
    have htail := scripted_tail hz hx
    exact ⟨{ hs with }, hz.1, htail⟩
  | store sch n hsc a v hp hx =>
    have htail := scripted_tail hz hx
    exact ⟨{ hs with }, hz.1, htail⟩
  | idle => exact ⟨{ hs with }, hz⟩
  | delivered sch ps n e hp =>
    obtain ⟨⟨-, hlow⟩, -⟩ : (s.ctrl.en = true ∧ s.ctrl.iflag = false) ∧ s.port.rearmed = true := by
      simpa [portEnabled] using hp
    have hallowed : portAllows s (c e.status) = true := hwb hlow rfl
    exact ⟨{ hs with pendingFits := fun _ _ => (Bool.and_eq_true_iff.mp hallowed).1 }, hz⟩

end Sys2Proof.WellBehaved

namespace Sys2Proof

open Sys2Proof.WellBehaved

/-- Settles O46: on track a received byte finds the receive phase, where a byte is still expected; and every effect of a
step leads to the phase its counts and direction fit. -/
theorem wellBehavedPortNeverUnderflows : Obligations.WellBehavedPortNeverUnderflows := fun _ _ _ hs hz h =>
  ⟨step_cursorUnderflow hs h, onTrack_step hs hz h⟩

end Sys2Proof
end

section
/-!
The control word's bits and the address byte (spec/30_encoding.md R72, R75): a field of a layout reads back from its own
bit, and nothing of a 7-bit address is shifted out of its byte. The last statements about the encoding are settled after
it.
-/

namespace Sys2Proof.Encoding

open Sys2Proof.Machine

/-- A field sets no bit but its own. -/
theorem getLsbD_fieldAt (p q : Fin 8) (b : Bool) : (fieldAt p b).getLsbD q = (decide (p = q) && b) := by
  cases b with
  | false => simp [fieldAt]
  | true =>
    simp only [fieldAt, if_true, ← BitVec.twoPow_eq, BitVec.getLsbD_twoPow, p.isLt, Fin.ext_iff, decide_true,
      Bool.true_and, Bool.and_true]

/-- A bit of a packed control word is set by the fields that lie on it (R75). -/
theorem getLsbD_packControl (l : CtrlLayout) (w : ControlWord) (q : Fin 8) :
    (packControl l w).getLsbD q =
      (decide (l.rearm = q) && w.rearm || decide (l.ea = q) && w.ea || decide (l.sta = q) && w.sta ||
        decide (l.sto = q) && w.sto || decide (l.en = q) && w.en || decide (l.ie = q) && w.ie) := by
  simp only [packControl, BitVec.getLsbD_or, getLsbD_fieldAt]

/-- The address byte is the address with the direction bit appended below it (R72). -/
theorem addrByte_eq_append (addr7 : BitVec 7) (dir : BitVec 1) : addrByte addr7 dir = addr7 ++ dir := by
  rw [addrByte, BitVec.append_def, BitVec.shiftLeftZeroExtend_eq, BitVec.setWidth'_eq]

end Sys2Proof.Encoding

namespace Sys2Proof

open Sys2Proof.Machine Sys2Proof.Encoding

/-- Settles O5: with the positions distinct only the field itself lies on its bit. The list reversed has each inequality
the other way round. -/
theorem controlLayoutLosesNothing : Obligations.ControlLayoutLosesNothing := by
  intro l w h
  have hne : [l.rearm, l.ea, l.sta, l.sto, l.en, l.ie].Nodup := of_decide_eq_true h
  have hrev := List.nodup_reverse.mpr hne
  simp only [List.reverse_cons, List.reverse_nil, List.nil_append, List.cons_append, List.nodup_cons, List.mem_cons,
    List.not_mem_nil, or_false, not_or] at hne hrev
  simp only [unpackControl, getLsbD_packControl, hne, hrev, decide_true, decide_false, Bool.true_and, Bool.false_and,
    Bool.or_false, Bool.false_or]

/-- Settles O3: each word is closed, and the decoder and the control table are evaluated on it. -/
theorem wordsOfTheSpecDecode : Obligations.WordsOfTheSpecDecode := by
  unfold Obligations.WordsOfTheSpecDecode
  decide

/-- Settles O6: appending the one-bit direction shifts the address by one and adds the direction. -/
theorem addressByteIsShiftedAddress : Obligations.AddressByteIsShiftedAddress := by
  intro addr7 dir
  rw [addrByte_eq_append, BitVec.toNat_append, ← Nat.shiftLeft_add_eq_or_of_lt dir.isLt, Nat.shiftLeft_eq,
    Nat.pow_one, Nat.mul_comm]

/-- Settles O14: the two reserved rows have no meaning but the refusal, which looks at neither the bits nor the state. -/
theorem reservedOpsAreRefused : Obligations.ReservedOpsAreRefused := fun _ _ => ⟨rfl, rfl⟩

end Sys2Proof
end

section
/-!
A held command (spec/40_host_commands.md R90, 70_reset_and_hazards.md R186), agent by agent, and what the two queries
answer (R96, R97).
-/

namespace Sys2Proof.HeldCommand

open Sys2Proof.Machine Sys2Proof.Safety Sys2Proof.Kept Sys2Proof.Turn Sys2Proof.WellBehaved

/-- In flight each of the three transaction commands is held (R90). -/
theorem exec_transaction_inFlight {i : Instr} {s : State} (hi : isTransaction i = true) (hb : s.ctrl.ie = true) :
    exec i s = .next s := by
  cases i with
  | write | read | writeRead => exact interlock_held hb
  | _ => cases hi

/-- An event leaves the command interface alone: only commands are taken from it (R90). -/
theorem presented_of_event {i : Instr} {s t : State} (he : Effect i s t) (hi : i.format = .evt) :
    t.presented = s.presented := by
  cases he with
  | rejected f h =>
    obtain ⟨⟨div, pre, rfl⟩, -⟩ | ⟨htx, -⟩ := h
    · cases hi
    · rw [format_of_isTransaction htx] at hi; cases hi
  | armed div pre e => rw [e] at hi; cases hi
  | accepted a wp wc rp rc htx => rw [format_of_isTransaction htx] at hi; cases hi
  | polled e | answered b n e => rw [e] at hi; cases hi
  | advanced => rw [txAdvance_frame]
  | _ => rfl

/-- The port touches neither the command interface nor the host's script (R143). -/
theorem interface_portStep (c : Byte → EventClass) (s : State) :
    (portStep c s).presented = s.presented ∧ (portStep c s).hostScript = s.hostScript := by
  obtain ⟨-, h⟩ | ⟨-, e, ps, n, h⟩ := portStep_cases c s <;> rw [h] <;> exact ⟨rfl, rfl⟩

/-- Whichever agent moves, a held command stays presented and the script waits: the host tries the command again, and
the other two agents have no hand in either (R90, R186). -/
theorem interface_agentStep_held {c : Byte → EventClass} {a : Agent} {s t : State} {d : Nat} {i : Instr}
    (hp : s.presented = some d) (hd : decodeCommand s.params d = .ok i) (hi : isTransaction i = true)
    (hb : s.ctrl.ie = true) (h : agentStep c a s = .next t) :
    t.presented = s.presented ∧ t.hostScript = s.hostScript := by
  cases a with
  | host =>
    have hretry : agentStep c .host s = .next s := by
      simp only [agentStep, hostStep, hp]
      exact (runDescriptor_ok hd).trans (exec_transaction_inFlight hi hb)
    cases hretry.symm.trans h
    exact ⟨rfl, rfl⟩
  | sequencer =>
    have he : Effect (decodeEventWith c s.status) s t := exec_effect h
    exact ⟨presented_of_event he (format_decodeEventWith c s.status), (effect_interface he).1⟩
  | port =>
    cases h
    exact interface_portStep c s

end Sys2Proof.HeldCommand

namespace Sys2Proof

open Sys2Proof.Machine Sys2Proof.HeldCommand

/-- Settles O35: taking the turn leaves the command held, and so does whichever agent moves. -/
theorem heldCommandStaysPresented : Obligations.HeldCommandStaysPresented := by
  intro c s t d i hp hd hi hb h
  obtain ⟨sch, n, hturn⟩ := nextAgent_state s
  have hagent : agentStep c (nextAgent s).1 (nextAgent s).2 = .next t := h
  rw [hturn] at hagent
  obtain ⟨hpres, hscript⟩ :=
    interface_agentStep_held (s := { s with schedule := sch, draws := n }) hp hd hi hb hagent
  exact ⟨hpres.trans hp, hscript⟩

/-- Settles O12: both the bit returned and the borrow's end are decided by `CTRL.ie`. -/
theorem isBusyReturnsInterruptEnable : Obligations.IsBusyReturnsInterruptEnable := by
  intro s
  refine ⟨fun hb => ?_, fun hb => ?_⟩
  all_goals simp [exec, execIsBusy, observeIdle, busyBit, busy, accept, hb]

/-- Settles O13, outcome by outcome: the free bit is the one drawn with the counter. -/
theorem getStatusMapsOutcome : Obligations.GetStatusMapsOutcome := by
  intro s
  refine ⟨fun h => ?_, fun h => ?_, fun h => ⟨Config.freeResult s.draws, ?_⟩⟩
  all_goals simp only [exec, execGetStatus, h, accept]

end Sys2Proof
end

section
/-!
The sequencer's reaction to each event (spec/41_sequencer_events.md R110 to R124): the body of each class, that dispatch
is on the class alone, and the one control write that ends every serviced event.
-/

namespace Sys2Proof.Events

open Sys2Proof.Machine Sys2Proof.Safety Sys2Proof.BufferMemory

/-! ### Dispatch -/

/-- The class whose rule an event row follows (R80, R113 to R124); the six rows of class OTHER share one. -/
def classOfRow : Instr → EventClass
  | .startSent _ => .startSent
  | .repStartSent _ => .repStartSent
  | .slawAck _ => .slawAck
  | .txdataAck _ => .txdataAck
  | .arbLost _ => .arbLost
  | .slarAck _ => .slarAck
  | .rxdataAck _ => .rxdataAck
  | .rxdataNack _ => .rxdataNack
  | _ => .other

/-- What the rule of an event class makes of a state with the interrupt line high (R113 to R124); `b` is the status
byte. -/
def eventBody (k : EventClass) (b : Byte) (s : State) : State :=
  match k with
  | .startSent | .repStartSent => sendAddress s
  | .slawAck | .txdataAck => txAdvance s
  | .slarAck => armReceive s
  | .rxdataAck => storeReceived s.data s armReceive
  | .rxdataNack => storeReceived s.data s finishSuccess
  | .arbLost => ctrlWrite .start s
  | .other => endWithError b s

theorem exists_status {i : Instr} (hi : i.format = .evt) : ∃ b, ∀ p, encode p i = .event b := by
  cases i with
  | init | write | read | writeRead | isBusy | getStatus | reservedOp6 | reservedOp7 => cases hi
  | cwArm | cwStart | cwNext | cwNextAck | cwStop | cwHold => cases hi
  | _ => exact ⟨_, fun _ => rfl⟩

/-- An event row takes the interrupt and runs the body of its class (R110, R111). -/
theorem exec_event {i : Instr} {p : Params} {b : Byte} (hi : encode p i = .event b) (s : State) :
    exec i s = takeEvent s (eventBody (classOfRow i) b s) := by
  cases i <;> cases hi <;> rfl

theorem classOfRow_of_isOtherEvent {i : Instr} (hi : isOtherEvent i = true) : classOfRow i = .other := by
  cases i with
  | otherSlawNack | otherTxdataNack | otherSlarNack | otherBusError | otherNoState | other => rfl
  | _ => cases hi

theorem classOfRow_decodeEventWith (c : Byte → EventClass) (b : Byte) : classOfRow (decodeEventWith c b) = c b := by
  unfold decodeEventWith
  cases c b with
  | other => exact classOfRow_of_isOtherEvent (isOtherEvent_otherRow b)
  | _ => rfl

/-- A decoded event runs the body of its class (R111). -/
theorem exec_decodeEventWith (c : Byte → EventClass) (b : Byte) (s : State) :
    exec (decodeEventWith c b) s = takeEvent s (eventBody (c b) b s) := by
  rw [exec_event (encode_decodeEventWith s.params c b), classOfRow_decodeEventWith]

/-- The status byte itself matters to class OTHER alone (R111). -/
theorem eventBody_status {k : EventClass} (hk : k ≠ .other) (b b' : Byte) (s : State) :
    eventBody k b s = eventBody k b' s := by
  cases k with
  | other => exact absurd rfl hk
  | _ => rfl

/-! ### The bodies, written out -/

/-- The lookahead decision (R119), under any spelling `p` of "more than one byte outstanding": the word, and the answer
it arms, follow `p`. -/
theorem armReceive_next {s : State} {p : Prop} [Decidable p] (hp : 1 < s.rcnt ↔ p) :
    ∃ q : PortPrivate, q.rearmed = true ∧ q.ackLatch = decide p ∧ armReceive s =
      { s with
        ctrl := { en := true, ie := true, sta := false, sto := false, ea := decide p, iflag := false }
        port := q
        trace := s.trace ++ [.ctl (if p then .nextAck else .next)] } := by
  obtain ⟨h, e⟩ | ⟨h, e⟩ := armReceive_cases s <;> rw [e]
  · rw [decide_eq_true (hp.mp h), if_pos (hp.mp h)]
    exact ⟨portLatch .nextAck s.port, rfl, rfl, rfl⟩
  · have hn : ¬ p := fun k => absurd (hp.mpr k) (not_lt.mpr h)
    rw [decide_eq_false hn, if_neg hn]
    exact ⟨portLatch .next s.port, rfl, rfl, rfl⟩

/-- With the interrupt line high an event's answer is its body, in whatever form that is written out (R110). -/
theorem takeEvent_eq {s u t : State} (hflag : s.ctrl.iflag = true) (hie : s.ctrl.ie = true) (h : u = t) :
    takeEvent s u = .next t := by
  rw [takeEvent_enabled (eventEnabled_iff.mpr ⟨hflag, hie⟩), h]

/-- Sending the address byte (R113) appends two items. -/
theorem sendAddress_eq (s : State) :
    sendAddress s =
      { ctrlWrite .next (dataWrite s.ta s) with trace := s.trace ++ [.dat s.ta, .ctl .next] } := by
  simp [sendAddress, ctrlWrite, dataWrite]

/-- Sending a data byte (R117) appends two items. -/
theorem ctrlWrite_sendNextByte_eq (s : State) :
    ctrlWrite .next (sendNextByte s) =
      { ctrlWrite .next (sendNextByte s) with trace := s.trace ++ [.dat (memRead s s.wptr), .ctl .next] } := by
  simp [ctrlWrite, sendNextByte, dataWrite]

/-- CW_HOLD leaves a pending event pending (R124). -/
theorem endWithError_eq (b : Byte) {s : State} (hflag : s.ctrl.iflag = true) :
    endWithError b s =
      { endWithError b s with
        ctrl := { en := true, ie := false, sta := false, sto := false, ea := false, iflag := true } } := by
  simp [endWithError, ctrlWrite, controlFields, hflag]

theorem txAdvance_send {s : State} (hw : s.wcnt ≠ 0) : txAdvance s = ctrlWrite .next (sendNextByte s) := by
  simp [txAdvance, hw]

theorem txAdvance_turn {s : State} (hw : s.wcnt = 0) (hr : s.rcnt ≠ 0) :
    txAdvance s = ctrlWrite .start { s with ta := flipDirection s.ta } := by
  simp [txAdvance, hw, hr]

theorem txAdvance_finish {s : State} (hw : s.wcnt = 0) (hr : s.rcnt = 0) : txAdvance s = finishSuccess s := by
  simp [txAdvance, hw, hr]

/-- A byte received with no room left is CursorUnderflow, whatever would have followed it (R122). -/
theorem storeReceived_full {d : Byte} {s : State} {rest : State → State} (h : s.rcnt = 0) :
    storeReceived d s rest = raise .cursorUnderflow s := by simp [storeReceived, h]

/-! ### The control write that ends a serviced event -/

/-- `t` is `s` after at most one DataWrite and then one control write, which still found the old CTRL and port
(R112). -/
def EndsInControlWrite (s t : State) : Prop :=
  ∃ (w : CtlWord) (u : State), t = ctrlWrite w u ∧ u.ctrl = s.ctrl ∧ u.port = s.port ∧
    (u.trace = s.trace ∨ ∃ b, u.trace = s.trace ++ [.dat b] ∧ u.data = b)

theorem txAdvance_endsInControlWrite (s : State) : EndsInControlWrite s (txAdvance s) := by
  obtain ⟨-, e⟩ | ⟨-, -, e⟩ | ⟨-, -, e⟩ := txAdvance_cases s <;> rw [e]
  · exact ⟨.next, _, rfl, rfl, rfl, .inr ⟨_, rfl, rfl⟩⟩
  · exact ⟨.start, _, rfl, rfl, rfl, .inl rfl⟩
  · exact ⟨.stop, _, rfl, rfl, rfl, .inl rfl⟩

/-- Every class's rule ends in one control write, but for a byte received with no room left (R112, R122). -/
theorem eventBody_endsInControlWrite {k : EventClass} {s : State} (b : Byte)
    (room : k = .rxdataAck ∨ k = .rxdataNack → s.rcnt ≠ 0) : EndsInControlWrite s (eventBody k b s) := by
  cases k with
  | startSent | repStartSent => exact ⟨.next, dataWrite s.ta s, rfl, rfl, rfl, .inr ⟨s.ta, rfl, rfl⟩⟩
  | slawAck | txdataAck => exact txAdvance_endsInControlWrite s
  | slarAck => exact ⟨_, s, rfl, rfl, rfl, .inl rfl⟩
  | rxdataAck => exact ⟨_, storeByte s.data s, storeReceived_room (room (.inl rfl)), rfl, rfl, .inl rfl⟩
  | rxdataNack => exact ⟨.stop, _, storeReceived_room (room (.inr rfl)), rfl, rfl, .inl rfl⟩
  | arbLost => exact ⟨.start, s, rfl, rfl, rfl, .inl rfl⟩
  | other => exact ⟨.hold, _, rfl, rfl, rfl, .inl rfl⟩

/-- The receive events are the rows of the two receiving classes. -/
theorem isReceiveEvent_of_classOfRow {i : Instr} (h : classOfRow i = .rxdataAck ∨ classOfRow i = .rxdataNack) :
    isReceiveEvent i = true := by
  cases i with
  | rxdataAck | rxdataNack => rfl
  | _ => simp [classOfRow] at h

/-- Each control word is written by an instruction of its own (R75). -/
theorem exists_control_instr (w : CtlWord) :
    ∃ k : Instr, k.format = .ctl ∧ ∀ u, exec k u = .next (ctrlWrite w u) := by
  cases w with
  | arm => exact ⟨.cwArm, rfl, fun _ => rfl⟩
  | start => exact ⟨.cwStart, rfl, fun _ => rfl⟩
  | next => exact ⟨.cwNext, rfl, fun _ => rfl⟩
  | nextAck => exact ⟨.cwNextAck, rfl, fun _ => rfl⟩
  | stop => exact ⟨.cwStop, rfl, fun _ => rfl⟩
  | hold => exact ⟨.cwHold, rfl, fun _ => rfl⟩

/-! ### The byte a receive event stores -/

/-- The two receive events differ only in what follows the store, which leaves memory alone (R120, R121). -/
theorem exec_receiveEvent {i : Instr} (hi : isReceiveEvent i = true) (s : State) :
    ∃ rest : State → State, (∀ u, (rest u).mem = u.mem) ∧ exec i s = takeEvent s (storeReceived s.data s rest) := by
  cases i with
  | rxdataAck => exact ⟨armReceive, fun _ => rfl, rfl⟩
  | rxdataNack => exact ⟨finishSuccess, fun _ => rfl, rfl⟩
  | _ => cases hi

/-- A byte of buffer memory after a received byte was stored (R122). -/
theorem memRead_storeByte (d : Byte) (s : State) (a : Nat) :
    memRead (storeByte d s) a = if a = s.rptr then d else memRead s a := by
  rw [← memRead_memWrite]
  exact memRead_congr rfl a

end Sys2Proof.Events

namespace Sys2Proof

open Sys2Proof.Machine Sys2Proof.Safety Sys2Proof.Turn Sys2Proof.BufferMemory Sys2Proof.Events

/-- Settles O23: what is run is the body of the class, and only OTHER's body holds the status byte, in `errsig`. -/
theorem dispatchIsOnTheClassAlone : Obligations.DispatchIsOnTheClassAlone := by
  intro c b b' s hc
  rw [exec_decodeEventWith, exec_decodeEventWith, ← hc]
  refine ⟨fun hk => by rw [eventBody_status hk b b' s], fun hk t h => ?_⟩
  rw [hk] at h ⊢
  obtain ⟨hq, rfl⟩ | ⟨en, rfl⟩ := takeEvent_next h
  · exact ⟨t.errsig, takeEvent_disabled hq⟩
  · exact ⟨b', takeEvent_enabled en⟩

/-- Settles O25: the body of every class ends in a control write, which the word's own instruction makes too. -/
theorem oneControlWordEndsEveryEventStep : Obligations.OneControlWordEndsEveryEventStep := by
  intro i s t hi hflag hie hroom h
  obtain ⟨b, hb⟩ := exists_status hi
  rw [exec_event (hb s.params), takeEvent_eq hflag hie rfl] at h
  cases h
  obtain ⟨w, u, e, hctrl, hport, htrace⟩ :=
    eventBody_endsInControlWrite b (fun hk => hroom (isReceiveEvent_of_classOfRow hk))
  obtain ⟨k, hk, hexec⟩ := exists_control_instr w
  rw [e]
  exact ⟨k, u, hk, hexec u, hctrl, hport, rfl, htrace, w, rfl⟩

/-- Settles O27: with room the store is `memPut` at the read pointer, without room only the fault is recorded. -/
theorem receiveEventsWriteOneByte : Obligations.ReceiveEventsWriteOneByte := by
  intro i s t hi hflag hie h
  obtain ⟨rest, hrest, hexec⟩ := exec_receiveEvent hi s
  rw [hexec, takeEvent_eq hflag hie rfl] at h
  cases h
  refine ⟨fun room => ?_, fun full a => ?_⟩
  · have hread : ∀ a, memRead (rest (storeByte s.data s)) a = if a = s.rptr then s.data else memRead s a := fun a =>
      (memRead_congr (hrest _) a).trans (memRead_storeByte s.data s a)
    rw [storeReceived_room room]
    exact ⟨(hread _).trans (if_pos rfl), fun a ha => (hread a).trans (if_neg ha)⟩
  · rw [storeReceived_full full]
    exact memRead_congr rfl a

/-- Settles O15: both start events run `sendAddress`. -/
theorem startEventsSendAddress : Obligations.StartEventsSendAddress := by
  intro b s hflag hie
  have h := takeEvent_eq hflag hie (sendAddress_eq s)
  exact ⟨portLatch .next s.port, rfl, rfl, h, h⟩

/-- Settles O16: both transmit events run `TxAdvance`, arm by arm. -/
theorem transmitEventsAdvance : Obligations.TransmitEventsAdvance := by
  intro b s hflag hie
  refine ⟨fun hw => ?_, fun hw hr => ?_, fun hw hr => ?_⟩
  · have h := takeEvent_eq hflag hie ((txAdvance_send hw).trans (ctrlWrite_sendNextByte_eq s))
    exact ⟨portLatch .next s.port, rfl, rfl, h, h⟩
  · have h := takeEvent_eq hflag hie (txAdvance_turn hw hr)
    exact ⟨portLatch .start s.port, rfl, rfl, h, h⟩
  · have h := takeEvent_eq hflag hie (txAdvance_finish hw hr)
    exact ⟨portLatch .stop s.port, rfl, rfl, h, h⟩

/-- Settles O17: the lookahead decision on the count as it stands. -/
theorem readAddressAckArmsFirstByte : Obligations.ReadAddressAckArmsFirstByte := by
  intro b s hflag hie
  obtain ⟨p, hrearmed, hack, e⟩ := armReceive_next (s := s) Iff.rfl
  exact ⟨p, hrearmed, hack, takeEvent_eq hflag hie e⟩

/-- Settles O18: the lookahead decision is made on the decremented count. -/
theorem receiveAckStoresAndArmsNext : Obligations.ReceiveAckStoresAndArmsNext := by
  intro b s hflag hie
  refine ⟨fun room => ?_, fun full => takeEvent_eq hflag hie (storeReceived_full full)⟩
  have hcount : 1 < (storeByte s.data s).rcnt ↔ 2 < s.rcnt := by rw [storeByte_rcnt]; omega
  obtain ⟨p, hrearmed, hack, e⟩ := armReceive_next hcount
  exact ⟨p, hrearmed, hack, takeEvent_eq hflag hie ((storeReceived_room room).trans e)⟩

/-- Settles O19: what follows the store is the terminal success, whatever count is left. -/
theorem receiveNackStoresAndFinishes : Obligations.ReceiveNackStoresAndFinishes := fun _ s hflag hie =>
  ⟨fun room => ⟨portLatch .stop s.port, rfl, rfl, takeEvent_eq hflag hie (storeReceived_room room)⟩,
    fun full => takeEvent_eq hflag hie (storeReceived_full full)⟩

/-- Settles O20: the rule is the control write of CW_START alone. -/
theorem arbitrationLossReissuesStart : Obligations.ArbitrationLossReissuesStart := fun _ s hflag hie =>
  ⟨portLatch .start s.port, rfl, rfl, takeEvent_eq hflag hie rfl⟩

/-- Settles O21: the six rows share the error path, whose CW_HOLD leaves `iflag` set. -/
theorem otherEventsEndWithError : Obligations.OtherEventsEndWithError := by
  intro b s hflag hie
  have h := takeEvent_eq hflag hie (endWithError_eq b hflag)
  exact ⟨portLatch .hold s.port, rfl, rfl, h, h, h, h, h, h⟩

/-- Settles O22: either bit low makes the interrupt line low. -/
theorem eventsNeedTheInterruptLine : Obligations.EventsNeedTheInterruptLine := by
  intro i s hi hlow
  have hq : eventEnabled s = false := by
    obtain h | h := hlow <;> simp [eventEnabled, h]
  exact exec_event_disabled hi hq

/-- Settles O32: the sequencer's turn is the run of what STATUS decodes to. -/
theorem stepRunsTheStatusByte : Obligations.StepRunsTheStatusByte := fun _ _ hsch => stepWith_scheduled hsch

end Sys2Proof
end

section
/-!
A transaction in flight (spec/41_sequencer_events.md R127, R133): what any step makes of it is either a going on, which
requests no STOP, or one of the three terminal steps.
-/

namespace Sys2Proof.InFlight

open Sys2Proof.Machine Sys2Proof.Safety Sys2Proof.Invariants

/-- The three terminal steps (R133), each by the instruction that makes it. -/
inductive Terminal (i : Instr) (s : State) : State → Prop
  /-- A transmit event with nothing left to send or receive (R117). -/
  | sent (hi : isTransmitEvent i = true) (hw : s.wcnt = 0) (hr : s.rcnt = 0) : Terminal i s (finishSuccess s)
  /-- The last byte received (R121). -/
  | received (b : Byte) (hi : i = .rxdataNack b) (room : s.rcnt ≠ 0) :
      Terminal i s (finishSuccess (storeByte s.data s))
  /-- The error path (R124). -/
  | failed (b : Byte) (hi : isOtherEvent i = true) (hb : ∀ p, encode p i = .event b) : Terminal i s (endWithError b s)

/-- The transaction goes on: still in flight, and what the trace gained requests no STOP (R127). -/
def GoesOn (s t : State) : Prop :=
  t.ctrl.ie = true ∧ ∃ l, t.trace = s.trace ++ l ∧ .stop ∉ projectTrace l

theorem Terminal.idle {i : Instr} {s t : State} (h : Terminal i s t) : t.ctrl.ie = false := by
  cases h <;> rfl

theorem Terminal.format {i : Instr} {s t : State} (h : Terminal i s t) : i.format = .evt := by
  cases h with
  | sent hi => exact format_of_isTransmitEvent hi
  | received b hi => rw [hi]; rfl
  | failed b hi => exact format_of_isOtherEvent hi

theorem goesOn_of_same {s t : State} (hf : s.ctrl.ie = true) (hctrl : t.ctrl = s.ctrl) (htrace : t.trace = s.trace) :
    GoesOn s t :=
  ⟨by rw [hctrl, hf], [], by rw [htrace, List.append_nil], nofun⟩

/-- A control word that keeps the transaction in flight requests no STOP (R75, R127). -/
theorem stop_notMem_project_ctl {w : CtlWord} (hw : (controlFields w).ie = true) :
    .stop ∉ projectTrace [.ctl w] := by
  cases w with
  | start | next | nextAck => decide
  | arm | stop | hold => cases hw

/-- A control write with `ie = 1`, after nothing but DataWrites. -/
theorem goesOn_ctrlWrite {s u : State} {w : CtlWord} (hw : (controlFields w).ie = true)
    (hu : u.trace = s.trace ∨ ∃ b, u.trace = s.trace ++ [.dat b]) : GoesOn s (ctrlWrite w u) := by
  have hword := stop_notMem_project_ctl hw
  refine ⟨hw, ?_⟩
  obtain e | ⟨b, e⟩ := hu <;> rw [ctrlWrite_trace, e]
  · exact ⟨[.ctl w], rfl, hword⟩
  · refine ⟨[.dat b] ++ [.ctl w], List.append_assoc _ _ _, ?_⟩
    rw [projectTrace_append]
    simpa [projectTrace, projectItem] using hword

theorem goesOn_armReceive {s u : State} (hu : u.trace = s.trace) : GoesOn s (armReceive u) := by
  obtain ⟨-, e⟩ | ⟨-, e⟩ := armReceive_cases u <;> rw [e] <;> exact goesOn_ctrlWrite rfl (.inl hu)

/-- Any command or event meets a transaction in flight in one of two ways (R127, R133). -/
theorem effect_inFlight {i : Instr} {s t : State} (he : Effect i s t) (hi : i.format ≠ .ctl) (hf : s.ctrl.ie = true) :
    GoesOn s t ∨ eventEnabled s = true ∧ Terminal i s t := by
  cases he with
  | unchanged | rejected | polled | answered | underflowed => exact .inl (goesOn_of_same hf rfl rfl)
  | armed div pre e idle => exact absurd (hf.symm.trans idle) nofun
  | accepted a wp wc rp rc htx ho idle => exact absurd (hf.symm.trans idle) nofun
  | addressed => exact .inl (goesOn_ctrlWrite rfl (.inr ⟨_, rfl⟩))
  | advanced hev en =>
    obtain ⟨-, e⟩ | ⟨-, -, e⟩ | ⟨hw, hr, e⟩ := txAdvance_cases s <;> rw [e]
    · exact .inl (goesOn_ctrlWrite rfl (.inr ⟨_, rfl⟩))
    · exact .inl (goesOn_ctrlWrite rfl (.inl rfl))
    · exact .inr ⟨en, .sent hev hw hr⟩
  | armedReceive => exact .inl (goesOn_armReceive rfl)
  | stored => exact .inl (goesOn_armReceive rfl)
  | storedLast b hev en room => exact .inr ⟨en, .received b hev room⟩
  | retried => exact .inl (goesOn_ctrlWrite rfl (.inl rfl))
  | failed b hev hb en => exact .inr ⟨en, .failed b hev hb⟩
  | wrote w hctl => exact absurd hctl hi

/-- Any step meets a transaction in flight in one of the same two ways; the terminal ones are the sequencer's. -/
theorem step_inFlight {c : Byte → EventClass} {s t : State} (hf : s.ctrl.ie = true) (h : stepWith c s = .next t) :
    GoesOn s t ∨ s.ctrl.iflag = true ∧ ∃ sch n,
      Terminal (decodeEventWith c s.status) { s with schedule := sch, draws := n } t := by
  cases stepWith_effect h with
  | command sch n d hsc i t hd hp he =>
    obtain hgo | ⟨-, hterm⟩ := effect_inFlight he (format_decodeCommand_ne_ctl hd) hf
    · exact .inl hgo
    · exact absurd ((format_decodeCommand hd).symm.trans hterm.format) nofun
  | event sch n t he =>
    obtain hgo | ⟨en, hterm⟩ := effect_inFlight he (format_decodeEventWith_ne_ctl c s.status) hf
    · exact .inl hgo
    · exact .inr ⟨(eventEnabled_iff.mp en).1, sch, n, hterm⟩
  | idle | violated | load | store => exact .inl (goesOn_of_same hf rfl rfl)
  | delivered => exact .inl ⟨hf, [], (List.append_nil _).symm, nofun⟩

end Sys2Proof.InFlight

namespace Sys2Proof

open Sys2Proof.Machine Sys2Proof.Safety Sys2Proof.InFlight

/-- Settles O36: a step that does not go on is a terminal one, and the row decoded says its class. -/
theorem transactionsEndInThreeWays : Obligations.TransactionsEndInThreeWays := by
  intro c s t hf h hidle
  obtain ⟨hgo, -⟩ | ⟨hflag, sch, n, hterm⟩ := step_inFlight hf h
  · exact absurd (hgo.symm.trans hidle) nofun
  refine ⟨hflag, ?_⟩
  obtain ⟨-, isTransmit, isOther, -, -, isRxNack, -⟩ := class_of_decodeEventWith c s.status
  cases hterm with
  | sent hi hw hr => exact .inl ⟨isTransmit.mp hi, hw, hr, rfl, rfl⟩
  | received b hi room => exact .inr (.inl ⟨isRxNack b hi, room, rfl, rfl⟩)
  | failed b hi hb =>
    have hstatus := (encode_decodeEventWith s.params c s.status).symm.trans (hb s.params)
    obtain rfl : s.status = b := Encoded.event.inj hstatus
    exact .inr (.inr ⟨isOther.mp hi, rfl, rfl, rfl⟩)

/-- Settles O38: a terminal step would leave the block idle, so the step goes on. -/
theorem noStopInsideATransaction : Obligations.NoStopInsideATransaction := by
  intro c s t hf h hf'
  obtain ⟨-, htrace⟩ | ⟨-, sch, n, hterm⟩ := step_inFlight hf h
  · exact htrace
  · exact absurd (hf'.symm.trans hterm.idle) nofun

end Sys2Proof
end

section
/-!
Whole transactions on a scripted port that takes turns with the sequencer (spec/41_sequencer_events.md R125, R126,
R128): one event at a time, then the transmit and the receive phase, each by induction on the bytes left.
-/

namespace Sys2Proof.Served

open Sys2Proof.Machine Sys2Proof.Safety Sys2Proof.Turn Sys2Proof.Events Sys2Proof.BufferMemory
open Sys2Proof.Invariants Sys2Proof.HostTurn

/-! ### Serving one event -/

/-- The events `es` come next, each followed by the sequencer's turn; `r` and `ps` are what is left after them. -/
structure Scripted (es : List PortEvent) (r : List Agent) (ps : List PortEvent) (s : State) : Prop where
  schedule : s.schedule = serviceTurns es.length ++ r
  portScript : s.portScript = es ++ ps

/-- `s` after the control word `w` and then the event `e`, both turns taken: what the sequencer runs `e` on. -/
def arrived (c : Byte → EventClass) (w : CtlWord) (e : PortEvent) (s : State) : State :=
  deliver (c e.status) e { ctrlWrite w s with schedule := s.schedule.drop 2, portScript := s.portScript.tail }

section
variable {c : Byte → EventClass} {s : State} {e : PortEvent} {es ps : List PortEvent} {r : List Agent}

@[simp] theorem arrived_wptr (w : CtlWord) : (arrived c w e s).wptr = s.wptr := rfl
@[simp] theorem arrived_wcnt (w : CtlWord) : (arrived c w e s).wcnt = s.wcnt := rfl
@[simp] theorem arrived_trace (w : CtlWord) : (arrived c w e s).trace = s.trace ++ [.ctl w] := rfl
@[simp] theorem memRead_arrived (w : CtlWord) (a : Nat) : memRead (arrived c w e s) a = memRead s a := rfl

theorem scripted_arrived (w : CtlWord) (h : Scripted (e :: es) r ps s) : Scripted es r ps (arrived c w e s) where
  schedule := by rw [arrived, deliver_schedule, h.schedule]; rfl
  portScript := by rw [arrived, deliver_portScript, h.portScript]; rfl

/-- After a control word with `rearm = 1` the port has a step (R141, R144). -/
theorem portEnabled_ctrlWrite {w : CtlWord} (hw : (controlFields w).rearm = true) (s : State) :
    portEnabled (ctrlWrite w s) = true := by
  simp [portEnabled, portLatch, controlFields_en, hw]

/-- The port's step with an event in its script (R144). -/
theorem portStep_scripted (hps : s.portScript = e :: ps) (hen : portEnabled s = true) :
    portStep c s = deliver (c e.status) e { s with portScript := ps } := by
  rw [portStep, if_pos hen]
  simp only [nextEvent, hps]

/-- On the port's turn, with a step to do, the script's event is delivered (R144). -/
theorem stepWith_port (hsch : s.schedule = .port :: r) (hps : s.portScript = e :: ps) (hen : portEnabled s = true) :
    stepWith c s = .next (deliver (c e.status) e { s with schedule := r, portScript := ps }) := by
  rw [stepWith_scheduled hsch]
  exact congrArg Host.Outcome.next (portStep_scripted (s := { s with schedule := r }) hps hen)

/-- On the sequencer's turn, with the interrupt line high, the body of the pending event's class is run (R110). -/
theorem stepWith_sequencer (hsch : s.schedule = .sequencer :: r) (hline : eventEnabled s = true) :
    stepWith c s = .next (eventBody (c s.status) s.status { s with schedule := r }) := by
  rw [stepWith_scheduled hsch]
  exact (exec_decodeEventWith c s.status _).trans (takeEvent_enabled hline)

/-- One event served: after a control word that lets both go on, the port delivers it and the sequencer runs the body of
its class. -/
theorem runWith_serve {w : CtlWord} (hrearm : (controlFields w).rearm = true) (hie : (controlFields w).ie = true)
    (h : Scripted (e :: es) r ps s) :
    runWith c (2 * (e :: es).length) (ctrlWrite w s) =
      runWith c (2 * es.length) (eventBody (c e.status) e.status (arrived c w e s)) := by
  have hsch : (ctrlWrite w s).schedule = .port :: .sequencer :: (serviceTurns es.length ++ r) := h.schedule
  have hps : (ctrlWrite w s).portScript = e :: (es ++ ps) := h.portScript
  have hport := stepWith_port (c := c) hsch hps (portEnabled_ctrlWrite hrearm s)
  have hserve := stepWith_sequencer (c := c) (s := deliver (c e.status) e { ctrlWrite w s with
    schedule := .sequencer :: (serviceTurns es.length ++ r), portScript := es ++ ps }) rfl
    (eventEnabled_iff.mpr ⟨rfl, hie⟩)
  rw [List.length_cons, Nat.mul_succ, runWith_succ hport, runWith_succ hserve, arrived, h.schedule, h.portScript]
  rfl

end

/-! ### The end of a run -/

/-- What every acknowledged transaction ends with: Success, idle, all turns and events consumed, and the fault set
`fs` it began with. -/
structure Succeeded (r : List Agent) (ps : List PortEvent) (fs : List Fault) (t : State) : Prop where
  outcome : t.outcome = .success
  idle : t.ctrl.ie = false
  schedule : t.schedule = r
  portScript : t.portScript = ps
  faults : t.faults = fs

theorem succeeded_finishSuccess {r : List Agent} {ps : List PortEvent} {fs : List Fault} {s : State}
    (h : Scripted [] r ps s) (hfaults : s.faults = fs) : Succeeded r ps fs (finishSuccess s) where
  outcome := rfl
  idle := rfl
  schedule := h.schedule
  portScript := h.portScript
  faults := hfaults

/-! ### The buffer byte by byte -/

theorem bufferBytes_succ (s : State) (base n : Nat) :
    bufferBytes s base (n + 1) = memRead s base :: bufferBytes s (base + 1) n := by
  simp [bufferBytes, List.range_succ_eq_map, Nat.add_comm, Nat.add_left_comm]

/-- A cursor at the base of its region points there, and after one byte stands at the base of the rest (R131). -/
theorem cursorOn_rest {w a n ptr : Nat} (h : cursorOn w a (n + 1) ptr (n + 1)) :
    ptr = a ∧ cursorOn w (a + 1) n (nextAddr w ptr) n := by
  obtain ⟨hfit, -, hptr⟩ := h
  have hbase : ptr = a := by rw [hptr, Nat.sub_self, Nat.add_zero, Nat.mod_eq_of_lt (by omega)]
  exact ⟨hbase, by omega, le_rfl, by rw [hbase, Nat.sub_self]; rfl⟩

/-! ### The transmit phase -/

theorem eventBody_transmit {k : EventClass} (hk : k = .slawAck ∨ k = .txdataAck) (b : Byte) (s : State) :
    eventBody k b s = txAdvance s := by
  obtain rfl | rfl := hk <;> rfl

/-- The transmit phase with `n` bytes left at `a`, from the CW_NEXT of the byte before: each acknowledgement sends the
next byte, and the last one ends the transaction (R117, R126). -/
theorem runWith_transmit {c : Byte → EventClass} {r : List Agent} {es ps : List PortEvent} {n a : Nat} {s : State}
    (hlen : es.length = n + 1) (hk : ∀ e ∈ es, c e.status = .slawAck ∨ c e.status = .txdataAck)
    (hes : Scripted es r ps s) (hw : s.wcnt = n) (hr : s.rcnt = 0) (hcur : cursorOn s.params.addrW a n s.wptr n) :
    ∃ t, runWith c (2 * es.length) (ctrlWrite .next s) = .next t ∧ Succeeded r ps s.faults t ∧ t.wcnt = 0 ∧
      t.mem = s.mem ∧
      projectTrace t.trace = projectTrace s.trace ++ ((bufferBytes s a n).map .byte ++ [.stop]) := by
  induction n generalizing a s es with
  | zero =>
    obtain ⟨e, rfl⟩ := List.length_eq_one_iff.mp hlen
    have hbody : eventBody (c e.status) e.status (arrived c .next e s) =
        finishSuccess (arrived c .next e s) :=
      (eventBody_transmit (hk e List.mem_cons_self) _ _).trans (txAdvance_finish hw hr)
    refine ⟨_, (runWith_serve rfl rfl hes).trans (congrArg _ hbody), ?_, hw, rfl, ?_⟩
    · exact succeeded_finishSuccess (scripted_arrived .next hes) rfl
    · simp [finishSuccess, projectTrace, projectItem, controlFields, bufferBytes]
  | succ n ih =>
    obtain ⟨e, es, rfl⟩ := List.exists_cons_of_length_eq_add_one hlen
    obtain ⟨hptr, hrest⟩ := cursorOn_rest hcur
    have hbody : eventBody (c e.status) e.status (arrived c .next e s) =
        ctrlWrite .next (sendNextByte (arrived c .next e s)) :=
      (eventBody_transmit (hk e List.mem_cons_self) _ _).trans (txAdvance_send (by simp [hw]))
    have hes' := scripted_arrived (c := c) .next hes
    obtain ⟨t, hrun, hok, hwcnt, hmem, htrace⟩ :=
      ih (s := sendNextByte (arrived c .next e s)) (Nat.succ.inj hlen) (fun x hx => hk x (List.mem_cons_of_mem e hx))
        ⟨hes'.schedule, hes'.portScript⟩ (by simp [hw]) hr hrest
    refine ⟨t, (runWith_serve rfl rfl hes).trans ((congrArg _ hbody).trans hrun), hok, hwcnt, hmem, ?_⟩
    have hsent : projectTrace (sendNextByte (arrived c .next e s)).trace =
        projectTrace s.trace ++ [.byte (memRead s s.wptr)] := by
      simp [projectTrace, projectItem, controlFields]
    have hbytes : bufferBytes (sendNextByte (arrived c .next e s)) (a + 1) n = bufferBytes s (a + 1) n := rfl
    rw [htrace, hsent, hbytes, bufferBytes_succ, hptr]
    simp

/-! ### The receive phase -/

theorem armReceive_last {s : State} (h : s.rcnt ≤ 1) : armReceive s = ctrlWrite .next s := by
  rw [armReceive, if_neg (not_lt.mpr h)]

theorem armReceive_more {s : State} (h : 1 < s.rcnt) : armReceive s = ctrlWrite .nextAck s := by
  rw [armReceive, if_pos h]

/-- `s` after the control word `w`, the receive event `e` and the store of its byte (R122). -/
def received (c : Byte → EventClass) (w : CtlWord) (e : PortEvent) (s : State) : State :=
  storeByte e.data (arrived c w e s)

section
variable (c : Byte → EventClass) (w : CtlWord) {s : State} {e : PortEvent}

theorem rcnt_received : (received c w e s).rcnt = s.rcnt - 1 := rfl

theorem faults_received : (received c w e s).faults = s.faults := rfl

theorem trace_received : (received c w e s).trace = s.trace ++ [.ctl w] := rfl

theorem memRead_received (a : Nat) : memRead (received c w e s) a = if a = s.rptr then e.data else memRead s a :=
  memRead_storeByte e.data (arrived c w e s) a

theorem scripted_received {es ps : List PortEvent} {r : List Agent} (h : Scripted (e :: es) r ps s) :
    Scripted es r ps (received c w e s) where
  schedule := (scripted_arrived (c := c) w h).schedule
  portScript := (scripted_arrived (c := c) w h).portScript

/-- A byte that arrives with room is stored, and the step goes on from there (R122). -/
theorem storeReceived_arrived {rest : State → State} (room : s.rcnt ≠ 0) :
    storeReceived e.data (arrived c w e s) rest = rest (received c w e s) :=
  storeReceived_room (s := arrived c w e s) room

end

/-- The receive phase with `n + 1` bytes to come at `a`, from the arming of the first: each but the last is stored and
the next one armed, the last one ends the transaction (R119, R120, R121, R125). -/
theorem runWith_receive {c : Byte → EventClass} {r : List Agent} {es ps : List PortEvent} {n a : Nat} {s : State}
    (hk : es.map (fun e => c e.status) = List.replicate n .rxdataAck ++ [.rxdataNack]) (hes : Scripted es r ps s)
    (hr : s.rcnt = n + 1) (hcur : cursorOn s.params.addrW a (n + 1) s.rptr (n + 1)) :
    ∃ t, runWith c (2 * es.length) (armReceive s) = .next t ∧ Succeeded r ps s.faults t ∧ t.rcnt = 0 ∧
      bufferBytes t a (n + 1) = es.map (fun e => e.data) ∧
      (∀ x, inRegion a (n + 1) x = false → memRead t x = memRead s x) ∧
      controlWords t.trace = controlWords s.trace ++ (List.replicate n .nextAck ++ [.next, .stop]) := by
  induction n generalizing a s es with
  | zero =>
    obtain ⟨e, rfl, hclass⟩ := List.map_eq_singleton_iff.mp hk
    obtain ⟨hptr, -⟩ := cursorOn_rest hcur
    have hbody : eventBody (c e.status) e.status (arrived c .next e s) = finishSuccess (received c .next e s) := by
      rw [hclass]
      exact storeReceived_arrived _ _ (by omega)
    have hread (x : Nat) :
        memRead (finishSuccess (received c .next e s)) x = if x = s.rptr then e.data else memRead s x :=
      (memRead_congr (ctrlWrite_mem _ _) x).trans (memRead_received c .next x)
    have hok := succeeded_finishSuccess (scripted_received c .next hes) (faults_received c .next)
    refine ⟨_, ?_, hok, ?_, ?_, fun x hx => ?_, ?_⟩
    · rw [armReceive_last hr.le, runWith_serve rfl rfl hes, hbody]
      rfl
    · rw [finishSuccess, ctrlWrite_rcnt, rcnt_received, hr]
    · rw [bufferBytes_succ, hread, if_pos hptr.symm]
      rfl
    · rw [hread, if_neg]
      rintro rfl
      simp [inRegion, hptr] at hx
    · simp [finishSuccess, trace_received, controlWords_append, controlWords]
  | succ n ih =>
    obtain ⟨e, es, rfl, hclass, hk⟩ := List.map_eq_cons_iff.mp hk
    obtain ⟨hptr, hrest⟩ := cursorOn_rest hcur
    have hbody : eventBody (c e.status) e.status (arrived c .nextAck e s) = armReceive (received c .nextAck e s) := by
      rw [hclass]
      exact storeReceived_arrived _ _ (by omega)
    obtain ⟨t, hrun, hok, hrcnt, hbytes, hframe, hwords⟩ :=
      ih (s := received c .nextAck e s) hk (scripted_received c .nextAck hes) (by rw [rcnt_received, hr]; rfl) hrest
    rw [faults_received] at hok
    refine ⟨t, ?_, hok, hrcnt, ?_, fun x hx => ?_, ?_⟩
    · rw [armReceive_more (by omega), runWith_serve rfl rfl hes, hbody, hrun]
    · have hfirst : memRead t a = e.data := by
        rw [hframe a (by simp [inRegion]), memRead_received, if_pos hptr.symm]
      rw [bufferBytes_succ, hbytes, hfirst, List.map_cons]
    · simp only [inRegion, Bool.and_eq_false_iff, decide_eq_false_iff_not] at hx hframe
      rw [hframe x (by omega), memRead_received, if_neg (by omega)]
    · rw [hwords, trace_received, List.replicate_succ]
      simp [controlWords_append, controlWords]

/-! ### From the command to the first byte -/

/-- What a started transaction has once its address byte is in DATA, before the CW_NEXT that sends it: the operands in
their cursors, and memory and the fault set as they were in `s` (R92, R113). -/
structure Addressed (a : Byte) (wp wc rp rc : Nat) (s u : State) : Prop where
  params : u.params = s.params
  wptr : u.wptr = wp
  wcnt : u.wcnt = wc
  rptr : u.rptr = rp
  rcnt : u.rcnt = rc
  mem : u.mem = s.mem
  faults : u.faults = s.faults
  trace : u.trace = s.trace ++ [.ctl .start, .dat a]

/-- The state a transaction starts from, before its CW_START (R92). -/
def installed (a : Byte) (wp wc rp rc : Nat) (s : State) : State :=
  { accept none s with
    ta := a, wptr := wp, wcnt := wc, rptr := rp, rcnt := rc, outcome := .busy
    borrow := some { wbase := wp, wlen := wc, rbase := rp, rlen := rc } }

/-- `s` when the host's turn is taken and the script's command `d` presented; `r` and `hs` are what is left (R90). -/
def issued (d : Nat) (r : List Agent) (hs : List HostAction) (s : State) : State :=
  { s with schedule := r, presented := some d, hostScript := hs }

/-- On the host's turn with nothing presented, the script's command is run, for every classifier (R90). -/
theorem stepWith_command {c : Byte → EventClass} {s : State} {d : Nat} {i : Instr} {r : List Agent}
    {hs : List HostAction} (hsch : s.schedule = .host :: r) (hp : s.presented = none)
    (hh : s.hostScript = .command d :: hs) (hd : decodeCommand s.params d = .ok i) :
    stepWith c s = exec i (issued d r hs s) := by
  rw [stepWith_scheduled hsch]
  simp only [agentStep, hostStep, hp, hh]
  exact runDescriptor_ok hd

theorem started_eq (a : Byte) (wp wc rp rc : Nat) (s : State) :
    started a wp wc rp rc s = ctrlWrite .start (installed a wp wc rp rc s) := rfl

theorem addressed_installed (c : Byte → EventClass) (e : PortEvent) (a : Byte) (wp wc rp rc : Nat) (s : State) :
    Addressed a wp wc rp rc s (dataWrite a (arrived c .start e (installed a wp wc rp rc s))) :=
  ⟨rfl, rfl, rfl, rfl, rfl, rfl, rfl, List.append_assoc _ _ _⟩

section
variable {c : Byte → EventClass} {s : State} {d : Nat} {i : Instr} {a : Byte} {wp wc rp rc : Nat}
  {hs : List HostAction} {e : PortEvent} {es ps : List PortEvent} {r : List Agent}

/-- The host's turn, START_SENT and its service: a transaction command is accepted and its address byte goes out. -/
theorem runWith_start (hie : s.ctrl.ie = false) (hen : s.ctrl.en = true) (hw : wp + wc ≤ 2 ^ s.params.addrW)
    (hr : rp + rc ≤ 2 ^ s.params.addrW) (hi : ∀ u, exec i u = interlock u (startTransaction a wp wc rp rc u))
    (hp : s.presented = none) (hh : s.hostScript = .command d :: hs) (hd : decodeCommand s.params d = .ok i)
    (hsch : s.schedule = .host :: (serviceTurns (e :: es).length ++ r)) (hps : s.portScript = (e :: es) ++ ps)
    (he : c e.status = .startSent) :
    ∃ u, runWith c (2 * (e :: es).length + 1) s = runWith c (2 * es.length) (ctrlWrite .next u) ∧
      Scripted es r ps u ∧ Addressed a wp wc rp rc s u := by
  have hes : Scripted (e :: es) r ps
      (installed a wp wc rp rc (issued d (serviceTurns (e :: es).length ++ r) hs s)) := ⟨rfl, hps⟩
  have hstep := (stepWith_command (c := c) hsch hp hh hd).trans ((hi _).trans (start_accepted hie hen hw hr))
  have hserve := runWith_serve (c := c) (w := .start) rfl rfl hes
  rw [he] at hserve
  have hes' := scripted_arrived (c := c) .start hes
  refine ⟨_, (runWith_succ hstep).trans hserve, ⟨hes'.schedule, hes'.portScript⟩, ?_⟩
  exact { addressed_installed c e a wp wc rp rc _ with }

end

theorem bufferBytes_congr {s t : State} (h : t.mem = s.mem) (base n : Nat) :
    bufferBytes t base n = bufferBytes s base n := by
  simp only [bufferBytes, memRead_congr h]

end Sys2Proof.Served

namespace Sys2Proof

open Sys2Proof.Machine Sys2Proof.Safety Sys2Proof.BufferMemory Sys2Proof.Invariants Sys2Proof.Events Sys2Proof.Served

/-- Settles O47: the start, then the transmit phase over the whole buffer. -/
theorem writeRunSendsTheBuffer : Obligations.WriteRunSendsTheBuffer := by
  intro c s d addr7 buf len es ps hs r hie hen hfit hp hh hd hsch hps hk
  obtain ⟨e, es, rfl, he, hk⟩ := List.map_eq_cons_iff.mp hk
  have hlen : es.length = len + 1 := by simpa using congrArg List.length hk
  have hturns : len + 2 = (e :: es).length := by rw [List.length_cons, hlen]
  rw [hturns] at hsch ⊢
  obtain ⟨u, hstart, hes, hu⟩ := runWith_start hie hen hfit (Nat.zero_le _) (fun _ => rfl) hp hh hd hsch hps he
  have hall : ∀ x ∈ es, c x.status = .slawAck ∨ c x.status = .txdataAck := fun x hx => by
    have hmem : c x.status ∈ es.map (fun e => c e.status) := List.mem_map_of_mem hx
    rw [hk] at hmem
    exact (List.mem_cons.mp hmem).imp_right List.eq_of_mem_replicate
  have hcur : cursorOn u.params.addrW buf len u.wptr len := by
    rw [hu.params, hu.wptr]
    exact cursorOn_base (regionWraps_false.mpr hfit) (startOperands_lt hd rfl).1
  obtain ⟨t, hrun, hok, hwcnt, hmem, htrace⟩ := runWith_transmit hlen hall hes hu.wcnt hu.rcnt hcur
  refine ⟨t, hstart.trans hrun, hok.outcome, hok.idle, hwcnt, memRead_congr (hmem.trans hu.mem), hok.schedule,
    hok.portScript, hok.faults.trans hu.faults, ?_⟩
  rw [htrace, hu.trace, bufferBytes_congr hu.mem, projectTrace_append, List.append_assoc]
  rfl

/-- Settles O48: the start, SLAR_ACK, then the receive phase over the whole buffer. -/
theorem readRunFillsTheBuffer : Obligations.ReadRunFillsTheBuffer := by
  intro c s d addr7 buf len es ps hs r hie hen hfit hne hp hh hd hsch hps hk
  obtain ⟨n, rfl⟩ := Nat.exists_eq_succ_of_ne_zero hne
  obtain ⟨e, es, rfl, he, hk⟩ := List.map_eq_cons_iff.mp hk
  obtain ⟨f, es, rfl, hf, hk⟩ := List.map_eq_cons_iff.mp hk
  have hlen : es.length = n + 1 := by simpa using congrArg List.length hk
  have hturns : n + 1 + 2 = (e :: f :: es).length := by rw [List.length_cons, List.length_cons, hlen]
  rw [Nat.succ_eq_add_one, hturns] at hsch
  rw [Nat.succ_eq_add_one, hturns]
  obtain ⟨u, hstart, hes, hu⟩ := runWith_start hie hen (Nat.zero_le _) hfit (fun _ => rfl) hp hh hd hsch hps he
  have hcur : cursorOn u.params.addrW buf (n + 1) u.rptr (n + 1) := by
    rw [hu.params, hu.rptr]
    exact cursorOn_base (regionWraps_false.mpr hfit) (startOperands_lt hd rfl).2.2.1
  have hslar := runWith_serve (c := c) (w := .next) rfl rfl hes
  rw [hf] at hslar
  obtain ⟨t, hrun, hok, hrcnt, hbytes, hframe, hwords⟩ :=
    runWith_receive (s := arrived c .next f u) hk (scripted_arrived .next hes) hu.rcnt hcur
  refine ⟨t, hstart.trans (hslar.trans hrun), hok.outcome, hok.idle, hrcnt, hok.schedule, hok.portScript,
    hok.faults.trans hu.faults, hbytes, fun x hx => (hframe x hx).trans (memRead_congr hu.mem x), ?_⟩
  have hnext : (arrived c .next f u).trace = s.trace ++ [.ctl .start, .dat (addrByte addr7 1#1), .ctl .next] := by
    simp [hu.trace]
  rw [hwords, hnext, controlWords_append, List.append_assoc]
  rfl

end Sys2Proof
end

section
/-!
The port's turn (spec/42_port_contract.md R143, R144): when the port has a step, and where an event with no script comes
from. What it does with a script is said above, with the transactions on a scripted port.
-/

namespace Sys2Proof.PortTurn

open Sys2Proof.Machine Sys2Proof.Turn

theorem portEnabled_iff {s : State} :
    portEnabled s = true ↔ s.ctrl.en = true ∧ s.ctrl.iflag = false ∧ s.port.rearmed = true := by
  simp [portEnabled, and_assoc]

theorem portEnabled_false_iff {s : State} :
    portEnabled s = false ↔ s.ctrl.en = false ∨ s.ctrl.iflag = true ∨ s.port.rearmed = false := by
  simp only [portEnabled, Bool.and_eq_false_iff, Bool.not_eq_false', or_assoc]

/-- The event an unconstrained port delivers, of any status and data (R144). -/
def freeEvent (s : State) : PortEvent := { status := Config.freeStatus s.draws, data := Config.freeData s.draws }

theorem portStep_unscripted {c : Byte → EventClass} {s : State} (hps : s.portScript = [])
    (hen : portEnabled s = true) :
    portStep c s = deliver (c (freeEvent s).status) (freeEvent s) { s with draws := s.draws + 1 } := by
  rw [portStep, if_pos hen]
  simp only [nextEvent, hps, freeEvent]

/-- On the port's turn, with a step to do and no script, a free event is delivered (R144). -/
theorem stepWith_port_unscripted {c : Byte → EventClass} {s : State} {r : List Agent} (hsch : s.schedule = .port :: r)
    (hps : s.portScript = []) (hen : portEnabled s = true) :
    stepWith c s =
      .next (deliver (c (freeEvent s).status) (freeEvent s) { s with schedule := r, draws := s.draws + 1 }) := by
  rw [stepWith_scheduled hsch]
  exact congrArg Host.Outcome.next (portStep_unscripted (s := { s with schedule := r }) hps hen)

/-- A port with no step to do takes its turn and nothing more (R144). -/
theorem stepWith_port_disabled {c : Byte → EventClass} {s : State} {r : List Agent} (hsch : s.schedule = .port :: r)
    (hen : portEnabled s = false) : stepWith c s = .next { s with schedule := r } := by
  rw [stepWith_scheduled hsch]
  exact congrArg Host.Outcome.next (if_neg (Bool.eq_false_iff.mp hen))

end Sys2Proof.PortTurn

namespace Sys2Proof

open Sys2Proof.Machine Sys2Proof.PortTurn Sys2Proof.Served

/-- Settles O33: an armed port delivers the script's event, or a free one when the script is empty; any other takes its
turn only. -/
theorem portDeliversOneEvent : Obligations.PortDeliversOneEvent := by
  intro s r hsch
  refine ⟨fun hen hflag hrearm => ?_, fun h => stepWith_port_disabled hsch (portEnabled_false_iff.mpr h)⟩
  have hport := portEnabled_iff.mpr ⟨hen, hflag, hrearm⟩
  cases hps : s.portScript with
  | nil =>
    refine ⟨freeEvent s, [], portObserve (classify (freeEvent s).status) s.port, s.draws + 1, ?_, rfl, rfl, nofun⟩
    rw [← hps]
    exact stepWith_port_unscripted hsch hps hport
  | cons e ps => exact ⟨e, ps, _, s.draws, stepWith_port hsch hps hport, rfl, rfl, fun _ => ⟨rfl, rfl⟩⟩

end Sys2Proof
end
